-- ==== Sys2Proof/Word.lean ====
section
/-!
DEFINITION. The words of the block (R15: unsigned bit vectors, bit 0 least significant) and the words its two
ports carry (R81, R86).
-/

namespace Sys2Proof

/-- The unit of every bus transfer (R51). -/
abbrev Byte := BitVec 8

/-- A raw or corrected reading, and the value of a response (R82, R87). -/
abbrev Reading := BitVec 16

/-- The CRC datagram, payload above check byte (R86). -/
abbrev Datagram := BitVec 24

/-- A device address of the two-wire bus (R50). -/
abbrev DeviceAddress := BitVec 7

/-- A word the host presents: the host request on SEQ's port (R81) or the datagram on CRCV's own port (R84, R117). -/
inductive Request where
  | hreq (word : BitVec 16)
  | dgram (word : Datagram)
  deriving DecidableEq, Repr

end Sys2Proof
end

