-- ==== Sys2Proof/Syntax.lean ====
section
/-!
DEFINITION. The operations of the block, one constructor per row of spec/opcode_table.json (R84, R85, R95, R96).
-/

namespace Sys2Proof

/-- The operations. Every `HREQ` operation carries its operand byte, because acceptance latches it into `ARG` whether
or not the operation reads it (R97, R131). -/
inductive Instr where
  /-- `MEAS.T`, op 0xE3 (R145). -/
  | measT (arg : Byte)
  /-- `MEAS.RH`, op 0xE5 (R146). -/
  | measRh (arg : Byte)
  /-- `SETRES`, op 0xE6, the operand is the resolution bits (R163). -/
  | setres (arg : Byte)
  /-- `RDREG`, op 0xE7 (R160). -/
  | rdreg (arg : Byte)
  /-- `MEAS.T.NH`, op 0xF3, reserved (R175). -/
  | measTNh (arg : Byte)
  /-- `MEAS.RH.NH`, op 0xF5, reserved (R176). -/
  | measRhNh (arg : Byte)
  /-- `SOFTRST`, op 0xFE, reserved (R177). -/
  | softrst (arg : Byte)
  /-- `ILLEGAL`, any op the source does not define (R178). -/
  | illegal (op arg : Byte)
  /-- `CRC.VALIDATE payload, check`, on CRCV's own port (R117). -/
  | crcValidate (payload : Reading) (check : Byte)
  deriving DecidableEq, Repr

end Sys2Proof
end

