-- ==== Sys2Proof/WellFormed.lean ====
section
/-!
DEFINITION. Which terms of `Instr` stand for an encodable operation: an `illegal` term must hold one of the 249 codes
outside the seven of R85 (R96, R178); every other term is encodable whatever its operands (R97, R117).
-/

namespace Sys2Proof

/-- The seven command codes the source defines (R85). -/
def definedCodes : List Byte := [0xE3#8, 0xE5#8, 0xF3#8, 0xF5#8, 0xE6#8, 0xE7#8, 0xFE#8]

/-- The operation can be encoded and decoded back. -/
def Instr.wellFormed : Instr → Bool
  | .illegal op _ => !definedCodes.contains op
  | .measT _ => true
  | .measRh _ => true
  | .setres _ => true
  | .rdreg _ => true
  | .measTNh _ => true
  | .measRhNh _ => true
  | .softrst _ => true
  | .crcValidate _ _ => true

end Sys2Proof
end

