-- ==== Sys2Proof/Decode.lean ====
section
/-!
DEFINITION. The command codes (R85), the decoder of the two ports (R81, R86, R98), and after it the encoder and the
textual form (R99).
-/

namespace Sys2Proof

/-! ## Command codes (R85) -/

/-- Trigger temperature measurement, hold mode. -/
def codeMeasT : Byte := 0xE3#8

/-- Trigger humidity measurement, hold mode. -/
def codeMeasRh : Byte := 0xE5#8

/-- Write control register. -/
def codeWriteReg : Byte := 0xE6#8

/-- Read control register. -/
def codeReadReg : Byte := 0xE7#8

/-- Trigger temperature measurement, non-hold; reserved. -/
def codeMeasTNh : Byte := 0xF3#8

/-- Trigger humidity measurement, non-hold; reserved. -/
def codeMeasRhNh : Byte := 0xF5#8

/-- Soft reset; reserved. -/
def codeSoftRst : Byte := 0xFE#8

/-! ## Decoder -/

/-- The `op` field of a host request (R81). -/
def hreqOp (w : BitVec 16) : Byte := w.extractLsb' 8 8

/-- The `arg` field of a host request (R81). -/
def hreqArg (w : BitVec 16) : Byte := w.extractLsb' 0 8

/-- The `payload` field of a datagram (R86). -/
def dgramPayload (w : Datagram) : Reading := w.extractLsb' 8 16

/-- The `check` field of a datagram (R86). -/
def dgramCheck (w : Datagram) : Byte := w.extractLsb' 0 8

/-- The operation a command code and an operand byte name (R85, R98): all eight bits of the code are compared (R83),
and a code the source does not define is illegal (R96). -/
def decodeCode (op arg : Byte) : Instr :=
  if op = codeMeasT then .measT arg
  else if op = codeMeasRh then .measRh arg
  else if op = codeWriteReg then .setres arg
  else if op = codeReadReg then .rdreg arg
  else if op = codeMeasTNh then .measTNh arg
  else if op = codeMeasRhNh then .measRhNh arg
  else if op = codeSoftRst then .softrst arg
  else .illegal op arg

/-- The decoder of the `HREQ` port, total (R98). -/
def decodeHreq (w : BitVec 16) : Instr := decodeCode (hreqOp w) (hreqArg w)

/-- The decoder of the `DGRAM` port: the operand pair is the whole word (R117). -/
def decodeDgram (w : Datagram) : Instr := .crcValidate (dgramPayload w) (dgramCheck w)

/-- The decoder of a word on either port. -/
def decode : Request → Instr
  | .hreq w => decodeHreq w
  | .dgram w => decodeDgram w

/-- Why a bare number is not a word of a port. -/
inductive WordError where
  /-- Neither port carries words of that many bits (R80). Safe: nothing is decoded. -/
  | noPortOfWidth (nbits : Nat)
  /-- The number does not fit in that many bits. Safe: nothing is decoded. -/
  | tooWide (nbits w : Nat)
  deriving DecidableEq, Repr

/-- The port word a number of a given width stands for: 16 bits on the `HREQ` port, 24 on the `DGRAM` port (R80). -/
def portWord (nbits w : Nat) : Except WordError Request :=
  if nbits = 16 then
    if w < 2 ^ 16 then .ok (.hreq (BitVec.ofNat 16 w)) else .error (.tooWide nbits w)
  else if nbits = 24 then
    if w < 2 ^ 24 then .ok (.dgram (BitVec.ofNat 24 w)) else .error (.tooWide nbits w)
  else .error (.noPortOfWidth nbits)

/-- The decoder on a number of a given width, rejecting by name what is no word of a port. -/
def decodeWord (nbits w : Nat) : Except WordError Instr :=
  match portWord nbits w with
  | .ok r => .ok (decode r)
  | .error e => .error e

/-- The instruction the decoder reads from a word of the opcode table. -/
def decodeTableWord (nbits w : Nat) : Option Instr :=
  match decodeWord nbits w with
  | .ok i => some i
  | .error _ => none

/-! ## Encoder -/

/-- A host request with the given code and operand byte (R81). -/
def hreqWord (op arg : Byte) : Request := .hreq (op ++ arg)

/-- The port word of an operation (R81, R85, R86). -/
def encode : Instr → Request
  | .measT arg => hreqWord codeMeasT arg
  | .measRh arg => hreqWord codeMeasRh arg
  | .setres arg => hreqWord codeWriteReg arg
  | .rdreg arg => hreqWord codeReadReg arg
  | .measTNh arg => hreqWord codeMeasTNh arg
  | .measRhNh arg => hreqWord codeMeasRhNh arg
  | .softrst arg => hreqWord codeSoftRst arg
  | .illegal op arg => hreqWord op arg
  | .crcValidate payload check => .dgram (payload ++ check)

/-! ## The opcode table -/

/-- A row of the `HREQ` part of spec/opcode_table.json: which bits are compared, and with what. -/
structure OpcodeRow where
  mnemonic : String
  mask : BitVec 16
  pattern : BitVec 16
  deriving DecidableEq, Repr

/-- The seven rows with a match and a mask (R98). -/
def opcodeRows : List OpcodeRow :=
  [⟨"MEAS.T", 0xFF00#16, 0xE300#16⟩, ⟨"MEAS.RH", 0xFF00#16, 0xE500#16⟩, ⟨"SETRES", 0xFF00#16, 0xE600#16⟩,
   ⟨"RDREG", 0xFF00#16, 0xE700#16⟩, ⟨"MEAS.T.NH", 0xFF00#16, 0xF300#16⟩, ⟨"MEAS.RH.NH", 0xFF00#16, 0xF500#16⟩,
   ⟨"SOFTRST", 0xFF00#16, 0xFE00#16⟩]

/-- The row matches the word. -/
def OpcodeRow.covers (r : OpcodeRow) (w : BitVec 16) : Bool := w &&& r.mask == r.pattern

/-- An operation's name in spec/opcode_table.json. -/
def Instr.mnemonic : Instr → String
  | .measT _ => "MEAS.T"
  | .measRh _ => "MEAS.RH"
  | .setres _ => "SETRES"
  | .rdreg _ => "RDREG"
  | .measTNh _ => "MEAS.T.NH"
  | .measRhNh _ => "MEAS.RH.NH"
  | .softrst _ => "SOFTRST"
  | .illegal _ _ => "ILLEGAL"
  | .crcValidate _ _ => "CRC.VALIDATE"

/-! ## Textual form (R99) -/

/-- One hexadecimal digit. -/
def hexDigit (n : Nat) : Char := ['0', '1', '2', '3', '4', '5', '6', '7', '8', '9', 'A', 'B', 'C', 'D', 'E', 'F'].getD n '?'

/-- A number as `k` hexadecimal digits, the most significant first. -/
def hexDigits : Nat → Nat → List Char
  | 0, _ => []
  | k + 1, n => hexDigits k (n / 16) ++ [hexDigit (n % 16)]

/-- A number as `0x` and `k` digits. -/
def hexText (k n : Nat) : String := String.ofList ('0' :: 'x' :: hexDigits k n)

/-- One line of a program (R99). The source gives no line to an illegal request; it is written as its `HREQ` word. -/
def Instr.text : Instr → String
  | .measT _ => "MEAS.T"
  | .measRh _ => "MEAS.RH"
  | .setres arg => "SETRES " ++ hexText 2 arg.toNat
  | .rdreg _ => "RDREG"
  | .measTNh _ => "MEAS.T.NH"
  | .measRhNh _ => "MEAS.RH.NH"
  | .softrst _ => "SOFTRST"
  | .illegal op arg => "HREQ " ++ hexText 4 (op.toNat * 256 + arg.toNat)
  | .crcValidate payload check => "CRC.VALIDATE " ++ hexText 4 payload.toNat ++ ", " ++ hexText 2 check.toNat

end Sys2Proof
end

