-- ==== Sys2Proof/Config.lean ====
section
/-!
DEFINITION. What an implementation fixes: the fixed constants of R7 to R10 and R14, the named parameters of R11 to R13,
and the free values: the environment's answers (R77) and the content of a register that holds no value (R22).
-/

namespace Sys2Proof

/-- The named parameters of the block. They are fixed before reset and never change (R233). -/
structure Config where
  /-- `T_SETTLE_MS`, milliseconds (R11). -/
  tSettleMs : Nat
  /-- `T_POLL_MS`, milliseconds (R12). -/
  tPollMs : Nat
  /-- `N_POLL`, the poll budget, at least 1 (R12). -/
  nPoll : Nat
  /-- `RES_MASK`, the bits of the control register that form the resolution field (R13). -/
  resMask : Byte
  deriving DecidableEq, Repr

namespace Config

/-- The defaults of R11 to R13. -/
def default : Config := { tSettleMs := 55, tPollMs := 1, nPoll := 100, resMask := 0x82#8 }

/-- `DEV_ADDR` (R7). -/
def devAddr : DeviceAddress := 0x40#7

/-- `POLY`, x^8 + x^5 + x^4 + 1 (R8, R89). -/
def poly : BitVec 9 := 0x131#9

/-- `DIV0`, the polynomial with its x^8 coefficient at bit 23 (R8, R89). -/
def div0 : BitVec 24 := 0x988000#24

/-- `CRC_ITER` (R8). -/
def crcIter : Nat := 16

/-- `N_RESP`, bytes of a measurement response (R9). -/
def nResp : Nat := 3

/-- `N_RREG`, bytes of a control-register read (R9). -/
def nRreg : Nat := 1

/-- `STATUS_MASK`, the two status bits of a reading (R10). -/
def statusMask : BitVec 16 := 0x0003#16

/-- `LEGACY_CRC_ERR` (R14). -/
def legacyCrcErr : Nat := 998

/-- `LEGACY_TIMEOUT` (R14). -/
def legacyTimeout : Nat := 999

/-- The registers of R21 a rule reads after an earlier step wrote them: the ones whose content matters while they hold
no value. -/
inductive Source where
  | op | arg | att | b0 | b1 | b2 | raw | merged
  deriving DecidableEq, Repr

/-- FREE VALUE. The answer of the environment's draw number `k` to `BusAvail` (R77): any natural number, under no law. -/
opaque drawAvail (k : Nat) : Nat

/-- FREE VALUE. The byte of the environment's draw number `k` to `BusFetch` (R77): any byte, under no law. -/
opaque drawByte (k : Nat) : Byte

/-- FREE VALUE. What reading the 8-bit register `r` gives while it holds no value (R22); no run reads it. -/
opaque noValueByte (r : Source) (k : Nat) : Byte

/-- FREE VALUE. What reading `RAW` gives while it holds no value (R22); no run reads it. -/
opaque noValueReading (r : Source) (k : Nat) : Reading

/-- FREE VALUE. What reading `ATT` gives while it holds no value (R22); no run reads it. -/
opaque noValueCount (r : Source) (k : Nat) : Nat

end Config

end Sys2Proof
end

