-- ==== Sys2Proof/Machine/State.lean ====
section
/-!
DEFINITION. The state of the machine (R21), the events of its bus and time source (R53 to R56, R214), the reasons a
step can stop, and the state after reset (R45).
-/

namespace Sys2Proof.Machine

/-- `PHASE`, the block's program counter: where SEQ is in the current operation (R23, R24). -/
inductive Phase where
  | idle | mCmd | mSettle | mReq | mPoll | mFetch | mAsm | mCheck | mMask | rCmd | rReq | rFetch | sWrite
  deriving DecidableEq, Repr

/-- The outcomes that end an operation (R102, R200). -/
inductive OutcomeCode where
  | ok | checksumFailure | timeout | refused
  deriving DecidableEq, Repr

/-- The events the block's calls into its environment are recorded as. -/
inductive Event where
  /-- `W(a, bytes)`: one framed write transmission (R53). -/
  | write (addr : DeviceAddress) (bytes : List Byte)
  /-- `Q(a, n)`: a request for `n` bytes (R54). -/
  | request (addr : DeviceAddress) (n : Nat)
  /-- `A(count)`: an availability answer (R55). -/
  | avail (count : Nat)
  /-- `F(bytes)`: the bytes a fetch returned, first received first (R56). -/
  | fetch (bytes : List Byte)
  /-- `S(ms)`: a sleep (R214). -/
  | sleep (ms : Nat)
  deriving DecidableEq, Repr

/-- Why the machine stops. -/
inductive Fault where
  /-- A call of a bus primitive or of `Sleep` that never returns: the operation hangs in its phase, stuck (R216, U12).
  Raised by every step that calls a capability, where the fairness premise does not hold. Safe: no claim about a later
  state can be proved. -/
  | capabilityNeverReturns
  deriving DecidableEq, Repr

/-- Why the model gives no meaning. -/
inductive Refusal where
  /-- An instruction whose meaning is not written. Raised by no arm of `exec` in this model. Safe. -/
  | notModelled (mnemonic : String)
  /-- A request presented while SEQ is in a phase that is not of the requested operation: HOST has no such move (R34,
  R131, U19). Raised by the meanings, never by a step from a state that keeps the machine's invariant. Safe: nothing can
  be proved about a host that breaks the rule; that HOST keeps it is an assumption about HOST. -/
  | requestWhileBusy
  deriving DecidableEq, Repr

/-- The state. A register is `none` while it holds no value (R22, R45). -/
structure State where
  /-- `PHASE` (R23). -/
  phase : Phase
  /-- `OP`, command code of the current operation (R25). -/
  op : Option Byte
  /-- `ARG`, operand byte (R25). -/
  arg : Option Byte
  /-- `ATT`, failed poll attempts (R27). -/
  att : Option Nat
  /-- `B0`, reading MSB (R26). -/
  b0 : Option Byte
  /-- `B1`, reading LSB (R26). -/
  b1 : Option Byte
  /-- `B2`, check byte (R26). -/
  b2 : Option Byte
  /-- `RAW`, raw reading (R28). -/
  raw : Option Reading
  /-- `UREG`, control-register byte just read (R29). -/
  ureg : Option Byte
  /-- `MERGED`, byte to write back (R29). -/
  merged : Option Byte
  /-- `OUTCOME` (R30). -/
  outcome : Option OutcomeCode
  /-- `RESULT` (R30). -/
  result : Option Reading
  /-- `REM`, running remainder (R38). -/
  rem : Option (BitVec 24)
  /-- `DIV`, current divisor (R39). -/
  div : Option (BitVec 24)
  /-- `IDX`, iterations done (R40). -/
  idx : Option Nat
  /-- `VALID`, CRCV's verdict (R33). -/
  valid : Option Bool
  /-- The parameters of R11 to R13, never written. -/
  cfg : Config
  /-- MODEL: the words the host is still to present, in order (R99, R131). -/
  requests : List Request
  /-- MODEL: the environment's next answers to `BusAvail` (R77). -/
  avails : List Nat
  /-- MODEL: the environment's next bytes for `BusFetch` (R77). -/
  bytes : List Byte
  /-- MODEL: number of the environment's next free answer (R77). -/
  draws : Nat
  /-- MODEL: after how many more calls a capability call never returns; none: every call returns (R216). -/
  returnsLeft : Option Nat
  /-- MODEL: the events so far, oldest first (R71). -/
  trace : List Event
  deriving DecidableEq, Repr

/-- The state after reset: `PHASE` is `IDLE` and every other register holds no value (R45); the parameters have their
defaults; the model's own fields are empty. -/
def State.reset : State where
  phase := .idle
  op := none
  arg := none
  att := none
  b0 := none
  b1 := none
  b2 := none
  raw := none
  ureg := none
  merged := none
  outcome := none
  result := none
  rem := none
  div := none
  idx := none
  valid := none
  cfg := Config.default
  requests := []
  avails := []
  bytes := []
  draws := 0
  returnsLeft := none
  trace := []

end Sys2Proof.Machine
end

