-- ==== Sys2Proof/Machine/Operands.lean ====
section
/-!
DEFINITION. Operand assembly (R90 to R94): the only data arithmetic outside CRCV (R122).
-/

namespace Sys2Proof.Machine

/-- `RAW` from the response: first byte high (R62, R90). -/
def assembleRaw (b0 b1 : Byte) : Reading := b0 ++ b1

/-- The CRC datagram of a reading and its check byte (R86, R91). -/
def datagram (payload : Reading) (check : Byte) : Datagram := payload ++ check

/-- The corrected reading: the two status bits cleared (R10, R92). -/
def corrected (raw : Reading) : Reading := raw &&& ~~~Config.statusMask

/-- The two status bits of a reading, never interpreted (R32, R87). -/
def statusBits (raw : Reading) : BitVec 2 := raw.extractLsb' 0 2

/-- The merged control byte: the field from the operand, every other bit from the register (R93, R165). -/
def mergeField (mask ureg arg : Byte) : Byte := (ureg &&& ~~~mask) ||| (arg &&& mask)

/-- The `RDREG` result: the byte, zero-extended (R94). -/
def zext16 (u : Byte) : Reading := u.setWidth 16

end Sys2Proof.Machine
end

