-- ==== Sys2Proof/Machine/Flags.lean ====
section
/-!
DEFINITION. The flag-like data of the block (R32): `BUSY` (R34), the outcome's code (R102), the verdict (R115), and the
response the host reads (R82, R31).
-/

namespace Sys2Proof.Machine

/-- `BUSY`: an operation is in progress (R34). -/
def State.busy (s : State) : Bool := s.phase != .idle

/-- The number R23 gives a phase; it identifies and carries no other meaning. -/
def Phase.ordinal : Phase → Nat
  | .idle => 0
  | .mCmd => 1
  | .mSettle => 2
  | .mReq => 3
  | .mPoll => 4
  | .mFetch => 5
  | .mAsm => 6
  | .mCheck => 7
  | .mMask => 8
  | .rCmd => 9
  | .rReq => 10
  | .rFetch => 11
  | .sWrite => 12

/-- The two-bit code of an outcome (R102). -/
def OutcomeCode.code : OutcomeCode → BitVec 2
  | .ok => 0#2
  | .checksumFailure => 1#2
  | .timeout => 2#2
  | .refused => 3#2

/-- The verdict of a final remainder: its low byte is zero (R115). -/
def remainderAccepts (rem : BitVec 24) : Bool := rem.extractLsb' 0 8 == 0x00#8

/-- The response, format `HRSP` (R82): the value is present only where the operation has a result. -/
structure Response where
  outcome : OutcomeCode
  value : Option Reading
  deriving DecidableEq, Repr

/-- The 18-bit word of a response whose value is present; without a value the low sixteen bits have no content (R82). -/
def Response.word (r : Response) : Option (BitVec 18) := r.value.map fun v => r.outcome.code ++ v

/-- What the host can read: `OUTCOME` and `RESULT`, when the operation is over (R31). -/
def State.response (s : State) : Option Response :=
  if s.busy then none else s.outcome.map fun o => { outcome := o, value := s.result }

end Sys2Proof.Machine
end

