-- ==== Sys2Proof/Machine/Ops.lean ====
section
/-!
DEFINITION. The shared operations: reading a register, the calls into the environment (R53 to R56, R214), acceptance
(R131), and the ways an operation ends (R179, R200, R206).
-/

namespace Sys2Proof.Machine

/-- The outcome of a part of a step. -/
abbrev Result (α : Type) := Host.Outcome α Fault Refusal

/-- Goes on with the next part where the first one answers. -/
def andThen {α β : Type} (o : Result α) (f : α → Result β) : Result β :=
  match o with
  | .next a => f a
  | .fault r => .fault r
  | .refused r => .refused r

/-! ## Reading registers: the register's value, or a free value while it holds none (R22) -/

def State.readOp (s : State) : Byte := s.op.getD (Config.noValueByte .op s.draws)
def State.readArg (s : State) : Byte := s.arg.getD (Config.noValueByte .arg s.draws)
def State.readAtt (s : State) : Nat := s.att.getD (Config.noValueCount .att s.draws)
def State.readB0 (s : State) : Byte := s.b0.getD (Config.noValueByte .b0 s.draws)
def State.readB1 (s : State) : Byte := s.b1.getD (Config.noValueByte .b1 s.draws)
def State.readB2 (s : State) : Byte := s.b2.getD (Config.noValueByte .b2 s.draws)
def State.readRaw (s : State) : Reading := s.raw.getD (Config.noValueReading .raw s.draws)
def State.readMerged (s : State) : Byte := s.merged.getD (Config.noValueByte .merged s.draws)

/-- `PHASE <- target` (R24). -/
def State.goto (target : Phase) (s : State) : State := { s with phase := target }

/-! ## Calls into the environment -/

/-- The event is recorded after the earlier ones (R71). -/
def State.record (e : Event) (s : State) : State := { s with trace := s.trace ++ [e] }

/-- A capability call returns, or hangs the operation (R216, U12). -/
def awaitReturn (s : State) : Result State :=
  match s.returnsLeft with
  | none => .next s
  | some 0 => .fault .capabilityNeverReturns
  | some (k + 1) => .next { s with returnsLeft := some k }

/-- The environment's next answer to `BusAvail`, and the state without it: the next one of the list, else a free
value (R77). -/
def State.takeAvail (s : State) : Nat × State :=
  match s.avails with
  | n :: ns => (n, { s with avails := ns })
  | [] => (Config.drawAvail s.draws, { s with draws := s.draws + 1 })

/-- The environment's next byte for `BusFetch`, and the state without it: the next one of the list, else a free
value (R77). -/
def State.takeByte (s : State) : Byte × State :=
  match s.bytes with
  | b :: bs => (b, { s with bytes := bs })
  | [] => (Config.drawByte s.draws, { s with draws := s.draws + 1 })

/-- `BusWrite(a, bytes)` (R53). -/
def busWrite (addr : DeviceAddress) (bytes : List Byte) (s : State) : Result State :=
  andThen (awaitReturn s) fun s => .next (s.record (.write addr bytes))

/-- `BusRequest(a, n)` (R54). -/
def busRequest (addr : DeviceAddress) (n : Nat) (s : State) : Result State :=
  andThen (awaitReturn s) fun s => .next (s.record (.request addr n))

/-- `BusAvail()` (R55): the count, and the state after the call. -/
def busAvail (s : State) : Result (Nat × State) :=
  andThen (awaitReturn s) fun s => .next (s.takeAvail.1, s.takeAvail.2.record (.avail s.takeAvail.1))

/-- `BusFetch(1)` (R56): the byte, and the state after the call. -/
def busFetch1 (s : State) : Result (Byte × State) :=
  andThen (awaitReturn s) fun s => .next (s.takeByte.1, s.takeByte.2.record (.fetch [s.takeByte.1]))

/-- Three bytes in arrival order, and the state without them. -/
def State.takeThree (s : State) : (Byte × Byte × Byte) × State :=
  let first := s.takeByte
  let second := first.2.takeByte
  let third := second.2.takeByte
  ((first.1, second.1, third.1), third.2)

/-- `BusFetch(3)` (R56, R66): exactly three bytes in arrival order, and the state after the call. -/
def busFetch3 (s : State) : Result ((Byte × Byte × Byte) × State) :=
  andThen (awaitReturn s) fun s =>
    let t := s.takeThree
    .next (t.1, t.2.record (.fetch [t.1.1, t.1.2.1, t.1.2.2]))

/-- `Sleep(ms)` (R214, R216): the event and nothing else. -/
def sleep (ms : Nat) (s : State) : Result State :=
  andThen (awaitReturn s) fun s => .next (s.record (.sleep ms))

/-- `BusWrite(a, [code])`: frame CMD1 (R58). -/
def writeCommand (code : Byte) (s : State) : Result State := busWrite Config.devAddr [code] s

/-- `BusWrite(a, [0xE6, data])`: frame CMD2 (R59), the command byte first. -/
def writeRegister (data : Byte) (s : State) : Result State := busWrite Config.devAddr [codeWriteReg, data] s

/-! ## Beginning and ending an operation -/

/-- What acceptance writes: the request is latched and every register other than `PHASE`, `OP`, `ARG` holds no value
(R31, R131). -/
def State.latch (op arg : Byte) (s : State) : State :=
  { s with
    op := some op, arg := some arg, att := none, b0 := none, b1 := none, b2 := none, raw := none, ureg := none,
    merged := none, outcome := none, result := none, rem := none, div := none, idx := none, valid := none }

/-- Acceptance of an operation the block executes (R131). -/
def accept (first : Phase) (op arg : Byte) (s : State) : Result State := .next ((s.latch op arg).goto first)

/-- Acceptance of a reserved or illegal code: the outcome is `Refused`, `PHASE` stays `IDLE`, nothing else happens
(R131, R179). -/
def refuse (op arg : Byte) (s : State) : Result State :=
  .next { s.latch op arg with outcome := some .refused, phase := .idle }

/-- `raise E` (R206): the one way an error ends an operation. -/
def State.raise (e : OutcomeCode) (s : State) : State := { s with outcome := some e, result := none, phase := .idle }

/-- `return OK(v)`, and `return OK` without a value (R30, R200). -/
def State.returnOk (v : Option Reading) (s : State) : State := { s with result := v, outcome := some .ok, phase := .idle }

end Sys2Proof.Machine
end

