-- ==== Sys2Proof/Machine/Configure.lean ====
section
/-!
DEFINITION. The control-register operations `RDREG` and `SETRES` (R160 to R169): one definition per step of SEQ.
-/

namespace Sys2Proof.Machine

/-- `R_CMD`: write the read-register command, the constant 0xE7 in both operations (R161). -/
def stepRCmd (s : State) : Result State :=
  andThen (writeCommand codeReadReg s) fun s => .next (s.goto .rReq)

/-- `R_REQ`: request one byte (R161). -/
def stepRReq (s : State) : Result State :=
  andThen (busRequest Config.devAddr Config.nRreg s) fun s => .next (s.goto .rFetch)

/-- `R_FETCH` of `RDREG`: fetch the byte and return it (R161); no wait, no poll, no check (R162). -/
def stepRFetchRead (s : State) : Result State :=
  andThen (busFetch1 s) fun u => .next ({ u.2 with ureg := some u.1 }.returnOk (some (zext16 u.1)))

/-- `R_FETCH` of `SETRES`: fetch the byte and merge the field into it (R164, R165). -/
def stepRFetchMerge (s : State) : Result State :=
  andThen (busFetch1 s) fun u =>
    .next ({ u.2 with ureg := some u.1, merged := some (mergeField u.2.cfg.resMask u.1 u.2.readArg) }.goto .sWrite)

/-- `S_WRITE`: write the merged byte back and return without a value (R164). -/
def stepSWrite (s : State) : Result State :=
  andThen (writeRegister s.readMerged s) fun s => .next (s.returnOk none)

/-- `RDREG` (R160): acceptance in `IDLE`, then the step of the current phase (R148). -/
def execRdreg (arg : Byte) (s : State) : Result State :=
  match s.phase with
  | .idle => accept .rCmd codeReadReg arg s
  | .rCmd => stepRCmd s
  | .rReq => stepRReq s
  | .rFetch => stepRFetchRead s
  | .sWrite | .mCmd | .mSettle | .mReq | .mPoll | .mFetch | .mAsm | .mCheck | .mMask => .refused .requestWhileBusy

/-- `SETRES` (R163): acceptance in `IDLE`, then the step of the current phase (R148). -/
def execSetres (arg : Byte) (s : State) : Result State :=
  match s.phase with
  | .idle => accept .rCmd codeWriteReg arg s
  | .rCmd => stepRCmd s
  | .rReq => stepRReq s
  | .rFetch => stepRFetchMerge s
  | .sWrite => stepSWrite s
  | .mCmd | .mSettle | .mReq | .mPoll | .mFetch | .mAsm | .mCheck | .mMask => .refused .requestWhileBusy

end Sys2Proof.Machine
end

