-- ==== Sys2Proof/Machine/Crcv.lean ====
section
/-!
DEFINITION. The checksum validator CRCV (R110 to R124) and its one operation, `CRC.VALIDATE`.
-/

namespace Sys2Proof.Machine

/-- CRCV's registers during a run (R33, R38 to R40). -/
structure CrcRegs where
  rem : BitVec 24
  div : BitVec 24
  idx : Nat
  valid : Option Bool
  deriving DecidableEq, Repr

/-- The initialisation micro-step (R111, R112). -/
def crcInit (m : Datagram) : CrcRegs := { rem := m, div := Config.div0, idx := 0, valid := none }

/-- One iteration (R113): the test of the running remainder, the exclusive-or, then the shift. -/
def crcIterate (c : CrcRegs) : CrcRegs :=
  { c with
    rem := if c.rem.getLsbD (23 - c.idx) then c.rem ^^^ c.div else c.rem
    div := c.div >>> 1
    idx := c.idx + 1 }

/-- The result micro-step (R115). -/
def crcResult (c : CrcRegs) : CrcRegs := { c with valid := some (remainderAccepts c.rem) }

/-- The registers after `k` iterations. -/
def crcIterations (m : Datagram) : Nat → CrcRegs
  | 0 => crcInit m
  | k + 1 => crcIterate (crcIterations m k)

/-- A whole run: initialisation, exactly sixteen iterations, result (R114, R117). -/
def crcRun (m : Datagram) : CrcRegs := crcResult (crcIterations m Config.crcIter)

/-- One micro-step after the initialisation: an iteration while fewer than sixteen are done, then the result (R40,
R123). -/
def crcMicroStep (c : CrcRegs) : CrcRegs := if c.idx < Config.crcIter then crcIterate c else crcResult c

/-- The registers after `k` micro-steps following the initialisation. -/
def crcMicroSteps (m : Datagram) : Nat → CrcRegs
  | 0 => crcInit m
  | k + 1 => crcMicroStep (crcMicroSteps m k)

/-- The final remainder of a datagram (R121). -/
def remainderOf (m : Datagram) : BitVec 24 := (crcRun m).rem

/-- `validate(payload, check)` (R110, R117). -/
def validate (payload : Reading) (check : Byte) : Bool := remainderAccepts (remainderOf (datagram payload check))

/-- `crc8(p)` (R119): the low byte of the remainder of the payload with a zero check byte. -/
def crc8 (p : Reading) : Byte := (remainderOf (datagram p 0x00#8)).extractLsb' 0 8

/-- One shift of the byte-serial form (R120). -/
def lfsrShift (crc : Byte) : Byte := if crc.getLsbD 7 then (crc <<< 1) ^^^ 0x31#8 else crc <<< 1

/-- `k` shifts of the byte-serial form. -/
def lfsrShifts : Nat → Byte → Byte
  | 0, crc => crc
  | k + 1, crc => lfsrShifts k (lfsrShift crc)

/-- One byte of the byte-serial form: the exclusive-or, then eight shifts (R120). -/
def lfsrByte (crc b : Byte) : Byte := lfsrShifts 8 (crc ^^^ b)

/-- The byte-serial form of the CRC, most significant byte first (R120). -/
def lfsrCrc8 (p : Reading) : Byte := lfsrByte (lfsrByte 0x00#8 (p.extractLsb' 8 8)) (p.extractLsb' 0 8)

/-- A run of CRCV in the machine: it writes `REM`, `DIV`, `IDX`, `VALID` and nothing else (R116). -/
def State.runCrcv (payload : Reading) (check : Byte) (s : State) : State :=
  let c := crcRun (datagram payload check)
  { s with rem := some c.rem, div := some c.div, idx := some c.idx, valid := c.valid }

/-- `CRC.VALIDATE` (R117) on CRCV's own port, one atomic step (R123); the port is the host's, so it moves only while no
operation runs (R20, R34). -/
def execCrcValidate (payload : Reading) (check : Byte) (s : State) : Result State :=
  if s.busy then .refused .requestWhileBusy else .next (s.runCrcv payload check)

end Sys2Proof.Machine
end

