-- ==== Sys2Proof/Machine/Measure.lean ====
section
/-!
DEFINITION. The measurement operations `MEAS.T` and `MEAS.RH` (R130 to R151): one definition per step of SEQ.
-/

namespace Sys2Proof.Machine

/-- `M_CMD`: write the trigger command held in `OP` (R132). -/
def stepMCmd (s : State) : Result State :=
  andThen (writeCommand s.readOp s) fun s => .next (s.goto .mSettle)

/-- `M_SETTLE`: sleep the settle interval (R133). -/
def stepMSettle (s : State) : Result State :=
  andThen (sleep s.cfg.tSettleMs s) fun s => .next (s.goto .mReq)

/-- `M_REQ`: request three bytes, no failed attempt so far (R134). -/
def stepMReq (s : State) : Result State :=
  andThen (busRequest Config.devAddr Config.nResp s) fun s => .next ({ s with att := some 0 }.goto .mPoll)

/-- A failed poll attempt after its sleep: one more is counted; the budget decides whether another follows (R136) or the
operation times out (R137). -/
def countFailedPoll (s : State) : State :=
  let att := s.readAtt + 1
  if att < s.cfg.nPoll then { s with att := some att }.goto .mPoll else { s with att := some att }.raise .timeout

/-- `M_POLL`: one poll attempt; at least three bytes available ends the loop, without a sleep (R66, R135 to R137). -/
def stepMPoll (s : State) : Result State :=
  andThen (busAvail s) fun a =>
    if Config.nResp ≤ a.1 then .next (a.2.goto .mFetch)
    else andThen (sleep a.2.cfg.tPollMs a.2) fun s => .next (countFailedPoll s)

/-- `M_FETCH`: fetch the three bytes (R138). -/
def stepMFetch (s : State) : Result State :=
  andThen (busFetch3 s) fun t =>
    .next ({ t.2 with b0 := some t.1.1, b1 := some t.1.2.1, b2 := some t.1.2.2 }.goto .mAsm)

/-- `M_ASM`: assemble the raw reading (R139). -/
def stepMAsm (s : State) : Result State :=
  .next ({ s with raw := some (assembleRaw s.readB0 s.readB1) }.goto .mCheck)

/-- `M_CHECK`: validate the reading with its status bits in place (R140), or fail (R141). -/
def stepMCheck (s : State) : Result State :=
  let checked := s.runCrcv s.readRaw s.readB2
  if validate s.readRaw s.readB2 then .next (checked.goto .mMask) else .next (checked.raise .checksumFailure)

/-- `M_MASK`: return the corrected reading (R142). -/
def stepMMask (s : State) : Result State := .next (s.returnOk (some (corrected s.readRaw)))

/-- A measurement (R147): acceptance in `IDLE`, then the step of the current phase (R148). In a phase of another
operation HOST has no move (R34). -/
def measurement (code arg : Byte) (s : State) : Result State :=
  match s.phase with
  | .idle => accept .mCmd code arg s
  | .mCmd => stepMCmd s
  | .mSettle => stepMSettle s
  | .mReq => stepMReq s
  | .mPoll => stepMPoll s
  | .mFetch => stepMFetch s
  | .mAsm => stepMAsm s
  | .mCheck => stepMCheck s
  | .mMask => stepMMask s
  | .rCmd | .rReq | .rFetch | .sWrite => .refused .requestWhileBusy

/-- `MEAS.T` (R145). -/
def execMeasT (arg : Byte) (s : State) : Result State := measurement codeMeasT arg s

/-- `MEAS.RH` (R146). -/
def execMeasRh (arg : Byte) (s : State) : Result State := measurement codeMeasRh arg s

end Sys2Proof.Machine
end

