-- ==== Sys2Proof/Machine/Reserved.lean ====
section
/-!
DEFINITION. The reserved and illegal command codes (R175 to R179): accepted in `IDLE` and refused at once, with no bus
traffic.
-/

namespace Sys2Proof.Machine

/-- Presentation of a code the block does not execute (R179); while an operation runs HOST has no move (R34). -/
def presentUnexecuted (op arg : Byte) (s : State) : Result State :=
  if s.busy then .refused .requestWhileBusy else refuse op arg s

/-- `MEAS.T.NH` (R175). -/
def execMeasTNh (arg : Byte) (s : State) : Result State := presentUnexecuted codeMeasTNh arg s

/-- `MEAS.RH.NH` (R176). -/
def execMeasRhNh (arg : Byte) (s : State) : Result State := presentUnexecuted codeMeasRhNh arg s

/-- `SOFTRST` (R177). -/
def execSoftrst (arg : Byte) (s : State) : Result State := presentUnexecuted codeSoftRst arg s

/-- `ILLEGAL` (R178). -/
def execIllegal (op arg : Byte) (s : State) : Result State := presentUnexecuted op arg s

end Sys2Proof.Machine
end

