-- ==== Sys2Proof/Machine/Dispatch.lean ====
section
/-!
DEFINITION. One arm per operation.
-/

namespace Sys2Proof.Machine

def exec (i : Instr) (s : State) : Host.Outcome State Fault Refusal :=
  match i with
  | .measT arg => Sys2Proof.Machine.execMeasT arg s
  | .measRh arg => Sys2Proof.Machine.execMeasRh arg s
  | .setres arg => Sys2Proof.Machine.execSetres arg s
  | .rdreg arg => Sys2Proof.Machine.execRdreg arg s
  | .measTNh arg => Sys2Proof.Machine.execMeasTNh arg s
  | .measRhNh arg => Sys2Proof.Machine.execMeasRhNh arg s
  | .softrst arg => Sys2Proof.Machine.execSoftrst arg s
  | .illegal op arg => Sys2Proof.Machine.execIllegal op arg s
  | .crcValidate payload check => Sys2Proof.Machine.execCrcValidate payload check s

end Sys2Proof.Machine
end

