-- ==== Sys2Proof/Machine/Fetch.lean ====
section
/-!
DEFINITION. Which operation the next step belongs to (R24, R131), and how a program's requests and the environment's
answers come into the state (R99).
-/

namespace Sys2Proof.Machine

/-- The operation in progress: the one `OP` and `ARG` hold (R25). -/
def State.current (s : State) : Instr := decodeCode s.readOp s.readArg

/-- The operation of the next step and the state it runs in: in `IDLE` the host's next request, taken from the list
(R131), or nothing where the host presents none; while an operation runs, that operation (R75). -/
def fetchOperation (s : State) : Option (Instr × State) :=
  if s.busy then some (s.current, s)
  else
    match s.requests with
    | [] => none
    | r :: rs => some (decode r, { s with requests := rs })

/-- The state in which the given word is the next request the block accepts: it stands first in the host's list and SEQ
is in `IDLE`. A number that is no word of a port changes nothing. -/
def State.presentWord (s : State) (nbits w : Nat) : State :=
  match portWord nbits w with
  | .ok r => { s with requests := r :: s.requests, phase := .idle }
  | .error _ => s

/-- A program (R99): its lines, and the script of the environment's answers. -/
structure Program where
  lines : List Instr
  avails : List Nat
  bytes : List Byte
  deriving DecidableEq, Repr

/-- The state in which the host is about to run the program. -/
def State.load (p : Program) (s : State) : State :=
  { s with requests := p.lines.map encode, avails := p.avails, bytes := p.bytes }

end Sys2Proof.Machine
end

