-- ==== Sys2Proof/Machine/Step.lean ====
section
/-!
DEFINITION. One step of the machine, and the placing of a request.
-/

namespace Sys2Proof.Machine

/-- One step: of the operation in progress, or the acceptance of the host's next request (R131, R148). In `IDLE` with no
request the block waits, unchanged (R45, R233). -/
def step (s : State) : Host.Outcome State Fault Refusal :=
  match fetchOperation s with
  | none => .next s
  | some (i, s') => exec i s'

/-- The state in which the very next step accepts the given word. -/
def State.withFetchWord (s : State) (nbits w : Nat) : State := s.presentWord nbits w

end Sys2Proof.Machine
end

