-- ==== Sys2Proof/Machine/Software.lean ====
section
/-!
DEFINITION. The software above the block, outside the hardware (R5 item 6): the unit converters (R185 to R190), the
public operations (R6, R100) and the legacy numbers (R101). Nothing in the machine depends on this file.
-/

namespace Sys2Proof.Machine

/-- `humidityFromRaw`, exactly, in percent (R186). -/
def humidityFromRaw (raw : Reading) : Rat := mkRat (125 * raw.toNat - 393216) 65536

/-- `temperatureFromRaw`, exactly, in degrees Celsius (R188). -/
def temperatureFromRaw (raw : Reading) : Rat := mkRat (-4685) 100 + mkRat (17572 * raw.toNat) 6553600

/-- The public operations of the driver that are operations of the block (R6). -/
inductive PublicOperation where
  | getTemperature
  | getHumidity
  | setResolution (bits : Byte)
  | readUserRegister
  deriving DecidableEq, Repr

/-- The block's operation a public operation expands to (R100). -/
def PublicOperation.request : PublicOperation → Instr
  | .getTemperature => .measT 0x00#8
  | .getHumidity => .measRh 0x00#8
  | .setResolution bits => .setres bits
  | .readUserRegister => .rdreg 0x00#8

/-- The number a public operation makes of a response that is `OK` with a value (R100, R189). -/
def PublicOperation.answer (p : PublicOperation) (r : Response) : Option Rat :=
  match p, r.outcome, r.value with
  | .getTemperature, .ok, some v => some (temperatureFromRaw v)
  | .getHumidity, .ok, some v => some (humidityFromRaw v)
  | .readUserRegister, .ok, some v => some v.toNat
  | _, _, _ => none

/-- The source's legacy number of an error outcome (R14, R101). -/
def OutcomeCode.legacy : OutcomeCode → Option Nat
  | .checksumFailure => some Config.legacyCrcErr
  | .timeout => some Config.legacyTimeout
  | .ok => none
  | .refused => none

end Sys2Proof.Machine
end

