-- ==== Sys2Proof/Safety.lean ====
section
/-!
DEFINITION. The premises a claim may state (R78, R216), which bus traffic the block may cause (R50, R58 to R61), and the
machine's invariant: what holds in every state a run reaches (R22, R24, R27, R30, R150).
-/

namespace Sys2Proof.Machine

/-! ## Premises -/

/-- The fairness premise: every capability call returns (R216). -/
abbrev Fair (s : State) : Prop := s.returnsLeft = none

/-- `HonestSensor(p)`: the first availability answer is at least 3 and the next three bytes are the reading and its
CRC (R78). -/
def HonestSensor (p : Reading) (s : State) : Prop :=
  (∃ n ns, s.avails = n :: ns ∧ 3 ≤ n) ∧ ∃ bs, s.bytes = p.extractLsb' 8 8 :: p.extractLsb' 0 8 :: crc8 p :: bs

/-- `SilentBus`: every availability answer within the poll budget is below 3 (R78). -/
def SilentBus (s : State) : Prop :=
  s.cfg.nPoll ≤ s.avails.length ∧ ∀ n ∈ s.avails.take s.cfg.nPoll, n < 3

/-- The operation is one of the two measurements. -/
def IsMeasurement (i : Instr) : Prop := ∃ arg, i = .measT arg ∨ i = .measRh arg

/-! ## Bus traffic -/

/-- The events the block may cause: every access goes to device 0x40, a write is CMD1 or CMD2, a read is of three bytes
or of one, a sleep is one of the two intervals. -/
def LegalEvent (cfg : Config) : Event → Prop
  | .write addr bytes =>
    addr = 0x40#7 ∧ (bytes = [0xE3#8] ∨ bytes = [0xE5#8] ∨ bytes = [0xE7#8] ∨ ∃ data, bytes = [0xE6#8, data])
  | .request addr n => addr = 0x40#7 ∧ (n = 3 ∨ n = 1)
  | .avail _ => True
  | .fetch bytes => bytes.length = 3 ∨ bytes.length = 1
  | .sleep ms => ms = cfg.tSettleMs ∨ ms = cfg.tPollMs

/-- The events a step from `s` to `t` added. -/
def newEvents (s t : State) : List Event := t.trace.drop s.trace.length

/-- The events of failed poll attempts: each answer below 3 is followed by one poll sleep (R136). -/
def failedPolls (cfg : Config) (counts : List Nat) : List Event :=
  counts.flatMap fun n => [.avail n, .sleep cfg.tPollMs]

/-! ## The invariant -/

/-- `OP` holds a measurement's code and `ARG` a byte. -/
def MeasuringOp (s : State) : Prop := (s.op = some 0xE3#8 ∨ s.op = some 0xE5#8) ∧ s.arg.isSome

/-- `OP` holds a control-register operation's code and `ARG` a byte. -/
def ConfiguringOp (s : State) : Prop := (s.op = some 0xE7#8 ∨ s.op = some 0xE6#8) ∧ s.arg.isSome

/-- The three response bytes are held. -/
def HasBytes (s : State) : Prop := s.b0.isSome ∧ s.b1.isSome ∧ s.b2.isSome

/-- `RAW` is the reading the held bytes assemble to (R139). -/
def HasRaw (s : State) : Prop := ∃ b0 b1, s.b0 = some b0 ∧ s.b1 = some b1 ∧ s.raw = some (assembleRaw b0 b1)

/-- The held reading and check byte validate (R150). -/
def HasValidated (s : State) : Prop := ∃ raw b2, s.raw = some raw ∧ s.b2 = some b2 ∧ validate raw b2 = true

/-- What each phase finds in the registers: the operation it belongs to (R148) and every register its step reads
(R22). -/
def PhaseHolds (s : State) : Prop :=
  match s.phase with
  | .idle => True
  | .mCmd | .mSettle | .mReq => MeasuringOp s
  | .mPoll | .mFetch => MeasuringOp s ∧ ∃ k, s.att = some k ∧ k < s.cfg.nPoll
  | .mAsm => MeasuringOp s ∧ HasBytes s
  | .mCheck => MeasuringOp s ∧ HasBytes s ∧ HasRaw s
  | .mMask => MeasuringOp s ∧ HasRaw s ∧ HasValidated s ∧ s.valid = some true
  | .rCmd | .rReq | .rFetch => ConfiguringOp s
  | .sWrite =>
    s.op = some 0xE6#8 ∧
      ∃ u a, s.ureg = some u ∧ s.arg = some a ∧ s.merged = some (mergeField s.cfg.resMask u a)

/-- CRCV's registers hold nothing, or what a completed run left in them (R115, R118). -/
def CrcvHolds (s : State) : Prop :=
  (s.rem = none ∧ s.div = none ∧ s.idx = none ∧ s.valid = none) ∨
    ∃ rem : BitVec 24, rem.toNat < 256 ∧ s.rem = some rem ∧ s.div = some 0x000098#24 ∧ s.idx = some 16 ∧
      s.valid = some (rem == 0#24)

/-- A value is held only beside the outcome `OK` and only of an operation that has a result: a validated, corrected
reading (R150) or the byte read (R94); and nothing is held while an operation runs (R30, R31). -/
def ResponseHolds (s : State) : Prop :=
  (s.phase ≠ .idle → s.outcome = none ∧ s.result = none) ∧
    (s.outcome = some .ok → s.result = none → s.op = some 0xE6#8) ∧
    ∀ v, s.result = some v → s.outcome = some .ok ∧
      ((MeasuringOp s ∧ HasRaw s ∧ HasValidated s ∧ s.raw.map corrected = some v) ∨
        (s.op = some 0xE7#8 ∧ s.ureg.map zext16 = some v))

/-- The invariant of the machine. -/
structure Inv (s : State) : Prop where
  /-- `N_POLL` is at least 1 (R12). -/
  budget : 1 ≤ s.cfg.nPoll
  /-- `ATT` never exceeds `N_POLL` (R27). -/
  attempts : ∀ k, s.att = some k → k ≤ s.cfg.nPoll
  crcv : CrcvHolds s
  response : ResponseHolds s
  phase : PhaseHolds s

end Sys2Proof.Machine
end

