-- ==== Sys2Proof/Certificates/Slice0/Obligations.lean ====
section
/-!
DEFINITION. The statements for the provers. Each docstring names the rule it formalises, or says that it rests on a choice
of the model. A next state written as a record update says the frame too: every field not named is unchanged.
-/

open Sys2Proof Sys2Proof.Machine

/-! ## Reset and stepping -/

/-- R45: after reset `PHASE` is `IDLE` and every other register holds no value; with no request the block waits. -/
def Obligations.ResetIsIdleAndEmpty : Prop :=
  State.reset.phase = .idle ∧ State.reset.op = none ∧ State.reset.arg = none ∧ State.reset.att = none ∧
  State.reset.b0 = none ∧ State.reset.b1 = none ∧ State.reset.b2 = none ∧ State.reset.raw = none ∧
  State.reset.ureg = none ∧ State.reset.merged = none ∧ State.reset.outcome = none ∧ State.reset.result = none ∧
  State.reset.rem = none ∧ State.reset.div = none ∧ State.reset.idx = none ∧ State.reset.valid = none ∧
  step State.reset = .next State.reset

/-- A step is `exec` of the operation it belongs to: in `IDLE` the one the host's next word encodes (log 6), while an
operation runs the one `OP` and `ARG` name (R25, R75); in `IDLE` with no request nothing changes. -/
def Obligations.StepRunsDecodedOperation : Prop :=
  ∀ s : State,
    (s.phase = .idle → s.requests = [] → step s = .next s) ∧
    (∀ i rs, s.phase = .idle → i.wellFormed = true → s.requests = encode i :: rs →
      step s = exec i { s with requests := rs }) ∧
    (∀ i o a, s.phase ≠ .idle → i.wellFormed = true → s.op = some o → s.arg = some a → encode i = .hreq (o ++ a) →
      step s = exec i s)

/-- The model's own placing of a word (log 20): the very next step accepts exactly it. -/
def Obligations.PlacedWordIsRunNext : Prop :=
  ∀ (s : State) (w : Nat),
    (w < 2 ^ 16 → step (s.withFetchWord 16 w) = exec (decodeHreq (BitVec.ofNat 16 w)) { s with phase := .idle }) ∧
    (w < 2 ^ 24 → step (s.withFetchWord 24 w) = exec (decodeDgram (BitVec.ofNat 24 w)) { s with phase := .idle })

/-! ## Encoding -/

/-- Decoding and encoding are inverse: a well-formed operation comes back from its word, and every word of either port
decodes to a well-formed operation whose word it is. -/
def Obligations.DecodeAndEncodeAgree : Prop :=
  (∀ i : Instr, i.wellFormed = true → decode (encode i) = i) ∧
  (∀ r : Request, (decode r).wellFormed = true ∧ encode (decode r) = r)

/-- R98, R85: the match is on the code alone; every word of the `HREQ` port is exactly one of the seven defined requests
or illegal. -/
def Obligations.CodeMapDecidesOperation : Prop :=
  ∀ w : BitVec 16,
    let arg := w.extractLsb' 0 8
    (w &&& 0xFF00#16 = 0xE300#16 ↔ decodeHreq w = .measT arg) ∧
    (w &&& 0xFF00#16 = 0xE500#16 ↔ decodeHreq w = .measRh arg) ∧
    (w &&& 0xFF00#16 = 0xE600#16 ↔ decodeHreq w = .setres arg) ∧
    (w &&& 0xFF00#16 = 0xE700#16 ↔ decodeHreq w = .rdreg arg) ∧
    (w &&& 0xFF00#16 = 0xF300#16 ↔ decodeHreq w = .measTNh arg) ∧
    (w &&& 0xFF00#16 = 0xF500#16 ↔ decodeHreq w = .measRhNh arg) ∧
    (w &&& 0xFF00#16 = 0xFE00#16 ↔ decodeHreq w = .softrst arg) ∧
    ((∀ c ∈ [0xE300#16, 0xE500#16, 0xE600#16, 0xE700#16, 0xF300#16, 0xF500#16, 0xFE00#16], w &&& 0xFF00#16 ≠ c) ↔
      decodeHreq w = .illegal (w.extractLsb' 8 8) arg)

/-- Words written out from the formats of R81 and R86. -/
def Obligations.WrittenOutWordsDecode : Prop :=
  decodeTableWord 16 0b1110001100000000 = some (.measT 0x00#8) ∧
  decodeTableWord 16 0b1110010111111111 = some (.measRh 0xFF#8) ∧
  decodeTableWord 16 0b1110011010000000 = some (.setres 0x80#8) ∧
  decodeTableWord 16 0b1110011110101011 = some (.rdreg 0xAB#8) ∧
  decodeTableWord 16 0b1111001100000000 = some (.measTNh 0x00#8) ∧
  decodeTableWord 16 0b1111010100000000 = some (.measRhNh 0x00#8) ∧
  decodeTableWord 16 0b1111111000000000 = some (.softrst 0x00#8) ∧
  decodeTableWord 16 0b1110010011111111 = some (.illegal 0xE4#8 0xFF#8) ∧
  decodeTableWord 24 0b011000100011000001001001 = some (.crcValidate 0x6230#16 0x49#8)

/-! ## Acceptance -/

/-- R131: a request is accepted only in `IDLE`; it is latched, every register but `PHASE`, `OP`, `ARG` holds no value, and
the code decides the phase or the refusal. While an operation runs no request is taken. -/
def Obligations.AcceptanceLatchesRequest : Prop :=
  (∀ (s : State) (o a : Byte) (rs : List Request), s.phase = .idle → s.requests = .hreq (o ++ a) :: rs →
    let cleared : State := { s with
      requests := rs, op := some o, arg := some a, att := none, b0 := none, b1 := none, b2 := none, raw := none,
      ureg := none, merged := none, outcome := none, result := none, rem := none, div := none, idx := none,
      valid := none }
    step s =
      if o = 0xE3#8 ∨ o = 0xE5#8 then .next { cleared with phase := .mCmd }
      else if o = 0xE7#8 ∨ o = 0xE6#8 then .next { cleared with phase := .rCmd }
      else .next { cleared with outcome := some .refused, phase := .idle }) ∧
  (∀ s t : State, s.phase ≠ .idle → step s = .next t → t.requests = s.requests)

/-- R179, R175 to R178: a reserved or illegal code is refused at once: the request is latched, the outcome is `Refused`,
no register else holds a value, no event happens, and the block is ready again. -/
def Obligations.UnexecutedCodesAnswerRefused : Prop :=
  ∀ (s : State) (i : Instr) (o a : Byte), s.phase = .idle →
    (i = .measTNh a ∧ o = 0xF3#8 ∨ i = .measRhNh a ∧ o = 0xF5#8 ∨ i = .softrst a ∧ o = 0xFE#8 ∨ i = .illegal o a) →
    exec i s = .next { s with
      phase := .idle, op := some o, arg := some a, outcome := some .refused, result := none, att := none, b0 := none,
      b1 := none, b2 := none, raw := none, ureg := none, merged := none, rem := none, div := none, idx := none,
      valid := none }

/-- R31: nothing is carried from one operation to the next. Two idle states that differ only in the registers accept the
same host request into the same state. -/
def Obligations.NothingIsCarriedOver : Prop :=
  ∀ (s s' : State) (w : BitVec 16) (rs : List Request), s.phase = .idle → s'.phase = .idle →
    s.requests = .hreq w :: rs → s'.requests = .hreq w :: rs → s'.cfg = s.cfg → s'.avails = s.avails →
    s'.bytes = s.bytes → s'.draws = s.draws → s'.returnsLeft = s.returnsLeft → s'.trace = s.trace → step s = step s'

/-- The model's choice for a move HOST does not have (R34, log 7): an operation presented while SEQ is in a phase of
another one is refused by name; one that has no phases, while any operation runs. -/
def Obligations.PresentationWhileBusyHasNoMeaning : Prop :=
  ∀ (s : State) (a o c : Byte) (p : Reading),
    (s.phase = .rCmd ∨ s.phase = .rReq ∨ s.phase = .rFetch ∨ s.phase = .sWrite →
      exec (.measT a) s = .refused .requestWhileBusy ∧ exec (.measRh a) s = .refused .requestWhileBusy) ∧
    (s.phase = .mCmd ∨ s.phase = .mSettle ∨ s.phase = .mReq ∨ s.phase = .mPoll ∨ s.phase = .mFetch ∨
        s.phase = .mAsm ∨ s.phase = .mCheck ∨ s.phase = .mMask →
      exec (.rdreg a) s = .refused .requestWhileBusy ∧ exec (.setres a) s = .refused .requestWhileBusy) ∧
    (s.phase = .sWrite → exec (.rdreg a) s = .refused .requestWhileBusy) ∧
    (s.phase ≠ .idle →
      exec (.measTNh a) s = .refused .requestWhileBusy ∧ exec (.measRhNh a) s = .refused .requestWhileBusy ∧
      exec (.softrst a) s = .refused .requestWhileBusy ∧ exec (.illegal o a) s = .refused .requestWhileBusy ∧
      exec (.crcValidate p c) s = .refused .requestWhileBusy)

/-! ## The measurement, step by step -/

/-- R132: the command byte written is the content of `OP`, to device 0x40, and nothing else changes. -/
def Obligations.TriggerCommandIsWritten : Prop :=
  ∀ (i : Instr) (s : State) (o : Byte), IsMeasurement i → Fair s → s.phase = .mCmd → s.op = some o →
    exec i s = .next { s with phase := .mSettle, trace := s.trace ++ [.write 0x40#7 [o]] }

/-- R133, R134: the settle sleep, then the request of exactly three bytes with no failed attempt counted. -/
def Obligations.SettleThenRequestThreeBytes : Prop :=
  ∀ (i : Instr) (s : State), IsMeasurement i → Fair s →
    (s.phase = .mSettle →
      exec i s = .next { s with phase := .mReq, trace := s.trace ++ [.sleep s.cfg.tSettleMs] }) ∧
    (s.phase = .mReq →
      exec i s = .next { s with phase := .mPoll, att := some 0, trace := s.trace ++ [.request 0x40#7 3] })

/-- R135: at least three bytes available ends the polling, without a sleep and without counting. The count is the
environment's next answer. -/
def Obligations.PollSucceedsAtThreeBytes : Prop :=
  ∀ (i : Instr) (s : State), IsMeasurement i → Fair s → s.phase = .mPoll → 3 ≤ s.takeAvail.1 →
    exec i s = .next { s with
      phase := .mFetch, avails := s.takeAvail.2.avails, draws := s.takeAvail.2.draws,
      trace := s.trace ++ [.avail s.takeAvail.1] }

/-- R136: a failed attempt that is not the last sleeps once, is counted, and polling goes on. -/
def Obligations.FailedPollIsCounted : Prop :=
  ∀ (i : Instr) (s : State) (k : Nat), IsMeasurement i → Fair s → s.phase = .mPoll → s.takeAvail.1 < 3 →
    s.att = some k → k + 1 < s.cfg.nPoll →
    exec i s = .next { s with
      phase := .mPoll, att := some (k + 1), avails := s.takeAvail.2.avails, draws := s.takeAvail.2.draws,
      trace := s.trace ++ [.avail s.takeAvail.1, .sleep s.cfg.tPollMs] }

/-- R137, R206: the failed attempt that uses up the budget sleeps once, is counted, and raises `Timeout`: `RESULT` holds
no value, nothing was fetched. -/
def Obligations.LastFailedPollRaisesTimeout : Prop :=
  ∀ (i : Instr) (s : State) (k : Nat), IsMeasurement i → Fair s → s.phase = .mPoll → s.takeAvail.1 < 3 →
    s.att = some k → k + 1 = s.cfg.nPoll →
    exec i s = .next { s with
      phase := .idle, att := some (k + 1), outcome := some .timeout, result := none,
      avails := s.takeAvail.2.avails, draws := s.takeAvail.2.draws,
      trace := s.trace ++ [.avail s.takeAvail.1, .sleep s.cfg.tPollMs] }

/-- R138: exactly three bytes are fetched, first received into `B0`. -/
def Obligations.FetchTakesThreeBytesInOrder : Prop :=
  ∀ (i : Instr) (s : State) (b0 b1 b2 : Byte), IsMeasurement i → Fair s → s.phase = .mFetch →
    s.takeThree.1 = (b0, b1, b2) →
    exec i s = .next { s with
      phase := .mAsm, b0 := some b0, b1 := some b1, b2 := some b2, bytes := s.takeThree.2.bytes,
      draws := s.takeThree.2.draws, trace := s.trace ++ [.fetch [b0, b1, b2]] }

/-- R139: the reading is assembled first byte high; no event. -/
def Obligations.ReadingIsAssembledHighByteFirst : Prop :=
  ∀ (i : Instr) (s : State) (b0 b1 : Byte), IsMeasurement i → s.phase = .mAsm → s.b0 = some b0 → s.b1 = some b1 →
    exec i s = .next { s with phase := .mCheck, raw := some ((b0.setWidth 16 <<< 8) ||| b1.setWidth 16) }

/-- R140, R141: the unmasked reading and the check byte go through CRCV; a valid message goes on to the masking step, an
invalid one raises `ChecksumFailure`, and `RESULT` holds no value. No event. -/
def Obligations.CheckDecidesBetweenMaskAndFailure : Prop :=
  ∀ (i : Instr) (s : State) (r : Reading) (c : Byte), IsMeasurement i → s.phase = .mCheck → s.raw = some r →
    s.b2 = some c →
    let checked : State := { s with
      rem := some (remainderOf (r ++ c)), div := some 0x000098#24, idx := some 16, valid := some (validate r c) }
    exec i s =
      if validate r c then .next { checked with phase := .mMask }
      else .next { checked with phase := .idle, outcome := some .checksumFailure, result := none }

/-- R142: the result is the reading with its two status bits cleared, the outcome is `OK`, and the block is idle. -/
def Obligations.MaskedReadingIsReturned : Prop :=
  ∀ (i : Instr) (s : State) (r : Reading), IsMeasurement i → s.phase = .mMask → s.raw = some r →
    exec i s = .next { s with phase := .idle, outcome := some .ok, result := some (r &&& 0xFFFC#16) }

/-! ## The control-register operations, step by step -/

/-- R161: write 0xE7 (in `SETRES` too), request one byte, fetch it and return it zero-extended. -/
def Obligations.RegisterReadSequence : Prop :=
  ∀ (s : State) (a : Byte), Fair s →
    (s.phase = .rCmd →
      exec (.rdreg a) s = .next { s with phase := .rReq, trace := s.trace ++ [.write 0x40#7 [0xE7#8]] } ∧
      exec (.setres a) s = .next { s with phase := .rReq, trace := s.trace ++ [.write 0x40#7 [0xE7#8]] }) ∧
    (s.phase = .rReq →
      exec (.rdreg a) s = .next { s with phase := .rFetch, trace := s.trace ++ [.request 0x40#7 1] }) ∧
    (s.phase = .rFetch →
      exec (.rdreg a) s = .next { s with
        phase := .idle, ureg := some s.takeByte.1, outcome := some .ok, result := some (s.takeByte.1.setWidth 16),
        bytes := s.takeByte.2.bytes, draws := s.takeByte.2.draws, trace := s.trace ++ [.fetch [s.takeByte.1]] })

/-- R164: the read half of R161, the merge of the field into the byte read, and the write of the two bytes 0xE6 and
`MERGED` in one transmission; the response is `OK` without a value. -/
def Obligations.ResolutionUpdateSequence : Prop :=
  ∀ (s : State) (a b m : Byte), Fair s →
    (s.phase = .rCmd →
      exec (.setres a) s = .next { s with phase := .rReq, trace := s.trace ++ [.write 0x40#7 [0xE7#8]] }) ∧
    (s.phase = .rReq →
      exec (.setres a) s = .next { s with phase := .rFetch, trace := s.trace ++ [.request 0x40#7 1] }) ∧
    (s.phase = .rFetch → s.arg = some b →
      exec (.setres a) s = .next { s with
        phase := .sWrite, ureg := some s.takeByte.1,
        merged := some ((s.takeByte.1 &&& ~~~s.cfg.resMask) ||| (b &&& s.cfg.resMask)),
        bytes := s.takeByte.2.bytes, draws := s.takeByte.2.draws, trace := s.trace ++ [.fetch [s.takeByte.1]] }) ∧
    (s.phase = .sWrite → s.merged = some m →
      exec (.setres a) s = .next { s with
        phase := .idle, outcome := some .ok, result := none,
        trace := s.trace ++ [.write 0x40#7 [0xE6#8, m]] })

/-- R169: the laws of the merge, for every register byte, operand and field. -/
def Obligations.MergeLaws : Prop :=
  ∀ m u a u' a' : Byte,
    mergeField m u a &&& ~~~m = u &&& ~~~m ∧
    mergeField m u a &&& m = a &&& m ∧
    (a' &&& m = a &&& m → mergeField m u a' = mergeField m u a) ∧
    (u' &&& ~~~m = u &&& ~~~m → mergeField m u' a = mergeField m u a) ∧
    mergeField m (mergeField m u a) a = mergeField m u a

/-- R92: the masked reading has its two low bits clear and every other bit of the reading. -/
def Obligations.MaskLaws : Prop :=
  ∀ r : Reading, corrected r &&& 0x0003#16 = 0#16 ∧ corrected r &&& 0xFFFC#16 = r &&& 0xFFFC#16 ∧
    corrected r = r &&& 0xFFFC#16

/-! ## The environment -/

/-- R77 as the model carries it (log 2): an answer is the next of the script, and where the script is used up a free value
that nothing constrains; nothing else changes. -/
def Obligations.EnvironmentAnswersAreDrawn : Prop :=
  ∀ s : State,
    (∀ n ns, s.avails = n :: ns → s.takeAvail = (n, { s with avails := ns })) ∧
    (s.avails = [] → s.takeAvail = (Config.drawAvail s.draws, { s with draws := s.draws + 1 })) ∧
    (∀ b bs, s.bytes = b :: bs → s.takeByte = (b, { s with bytes := bs })) ∧
    (s.bytes = [] → s.takeByte = (Config.drawByte s.draws, { s with draws := s.draws + 1 }))

/-- R216, U12: where a capability call does not return, the operation hangs at that call: every phase that calls one
stops, and the three that call none do not. -/
def Obligations.CallThatNeverReturnsHangs : Prop :=
  ∀ s : State, Inv s → s.returnsLeft = some 0 → s.phase ≠ .idle →
    (s.phase ≠ .mAsm → s.phase ≠ .mCheck → s.phase ≠ .mMask → step s = .fault .capabilityNeverReturns) ∧
    (s.phase = .mAsm ∨ s.phase = .mCheck ∨ s.phase = .mMask → ∃ t, step s = .next t)

/-- The model's hang (log 8) does nothing but count calls: with at least the two calls a step can make still to return, a
step gives what it gives under the fairness premise, with at most two calls fewer left. -/
def Obligations.CallsLeftOnlyCountDown : Prop :=
  ∀ (s t : State) (k : Nat), 2 ≤ k → step { s with returnsLeft := none } = .next t →
    ∃ j, j ≤ k ∧ k ≤ j + 2 ∧ step { s with returnsLeft := some k } = .next { t with returnsLeft := some j }

/-! ## The checksum validator -/

/-- R117, R116: `CRC.VALIDATE` on its own port writes `REM`, `DIV`, `IDX`, `VALID` and nothing else; the verdict is the
low byte of the remainder. -/
def Obligations.ValidateWritesOnlyCrcvRegisters : Prop :=
  ∀ (s : State) (p : Reading) (c : Byte), s.phase = .idle →
    exec (.crcValidate p c) s = .next { s with
      rem := some (remainderOf (p ++ c)), div := some 0x000098#24, idx := some 16,
      valid := some ((remainderOf (p ++ c)).extractLsb' 0 8 == 0x00#8) }

/-- R111 to R115: the algorithm, micro-step by micro-step. -/
def Obligations.ValidatorFollowsLongDivision : Prop :=
  (∀ m : Datagram, (crcIterations m 0).rem = m ∧ (crcIterations m 0).div = 0x988000#24 ∧
    (crcIterations m 0).idx = 0) ∧
  (∀ (m : Datagram) (i : Nat), i < 16 →
    let before := crcIterations m i
    let after := crcIterations m (i + 1)
    after.rem = (if before.rem.getLsbD (23 - i) then before.rem ^^^ before.div else before.rem) ∧
    after.div = before.div >>> 1 ∧ before.div = 0x988000#24 >>> i ∧ after.idx = i + 1) ∧
  (∀ (p : Reading) (c : Byte), remainderOf (p ++ c) = (crcIterations (p ++ c) 16).rem ∧
    validate p c = ((crcIterations (p ++ c) 16).rem.extractLsb' 0 8 == 0x00#8))

/-- R123: eighteen micro-steps (one initialisation, sixteen iterations, one result) leave exactly what the atomic run
leaves. -/
def Obligations.MicroStepsGiveTheAtomicRun : Prop :=
  ∀ m : Datagram, crcMicroSteps m 17 = crcRun m ∧
    (∀ k, k ≤ 16 → (crcMicroSteps m k).idx = k ∧ (crcMicroSteps m k).valid = none)

/-- R118: after `k` iterations the top `k` bits of the remainder are zero; so a final remainder is below 256, and its low
byte is zero exactly when all of it is. -/
def Obligations.RemainderHighBitsAreCleared : Prop :=
  (∀ (m : Datagram) (k : Nat), k ≤ 16 → (crcIterations m k).rem.toNat < 2 ^ (24 - k)) ∧
  (∀ m : Datagram, (remainderOf m).toNat < 256 ∧
    ((remainderOf m).extractLsb' 0 8 = 0x00#8 ↔ remainderOf m = 0#24))

/-- R119: the final remainder is the received check byte against `crc8`, so exactly one check byte validates. -/
def Obligations.ValidExactlyForTheCrc : Prop :=
  (∀ (p : Reading) (c : Byte), remainderOf (p ++ c) = (c ^^^ crc8 p).setWidth 24 ∧
    (validate p c = true ↔ c = crc8 p)) ∧
  crc8 0x0000#16 = 0x00#8 ∧ crc8 0x0001#16 = 0x31#8 ∧ crc8 0x0100#16 = 0xF4#8 ∧ crc8 0x8000#16 = 0x23#8 ∧
  crc8 0xFFFF#16 = 0x2D#8 ∧ crc8 0x6230#16 = 0x49#8

/-- R120: the byte-serial shift register computes the same CRC for every payload. -/
def Obligations.ByteSerialFormGivesTheCrc : Prop := ∀ p : Reading, lfsrCrc8 p = crc8 p

/-- R121, without its counts: the remainder is linear, so an error pattern in a valid message is missed exactly when its
own remainder is zero; and no error of one bit, of two bits, or within eight adjacent bits is missed. -/
def Obligations.ShortErrorsAreDetected : Prop :=
  (∀ a b : Datagram, remainderOf (a ^^^ b) = remainderOf a ^^^ remainderOf b) ∧
  (∀ m e : Datagram, remainderOf m = 0#24 → (remainderOf (m ^^^ e) = 0#24 ↔ remainderOf e = 0#24)) ∧
  (∀ i j : Nat, i < 24 → j < 24 → i ≠ j →
    remainderOf (1#24 <<< i) ≠ 0#24 ∧ remainderOf ((1#24 <<< i) ^^^ (1#24 <<< j)) ≠ 0#24) ∧
  (∀ (b : Byte) (k : Nat), b ≠ 0#8 → k ≤ 16 → remainderOf (b.setWidth 24 <<< k) ≠ 0#24)

/-! ## Responses -/

/-- R102, R82: the two-bit codes, and the 18-bit word of a response that has a value; R31: what the host reads in `IDLE`.
That a response without a value has no word, and that none is readable while an operation runs, is the model's choice
(log 18, DEDUCED from R82 and R31). -/
def Obligations.ResponseWordLayout : Prop :=
  OutcomeCode.ok.code = 0#2 ∧ OutcomeCode.checksumFailure.code = 1#2 ∧ OutcomeCode.timeout.code = 2#2 ∧
  OutcomeCode.refused.code = 3#2 ∧
  (∀ (o : OutcomeCode) (v : Reading), (Response.mk o (some v)).word = some (o.code ++ v)) ∧
  (∀ o : OutcomeCode, (Response.mk o none).word = none) ∧
  (∀ s : State, s.phase ≠ .idle → s.response = none) ∧
  (∀ (s : State) (o : OutcomeCode), s.phase = .idle → s.outcome = some o →
    s.response = some { outcome := o, value := s.result })

/-- R200: an operation's outcome is written in the step that returns to `IDLE` and in no other; which outcomes each
operation can end in, and where a value is held (R30). -/
def Obligations.OutcomeByOperation : Prop :=
  ∀ s t : State, Inv s → s.phase ≠ .idle → step s = .next t →
    (t.phase ≠ .idle → t.outcome = none ∧ t.result = none) ∧
    (t.phase = .idle →
      ((s.op = some 0xE3#8 ∨ s.op = some 0xE5#8) ∧
          (t.outcome = some .ok ∧ t.result.isSome ∨ t.outcome = some .checksumFailure ∧ t.result = none ∨
            t.outcome = some .timeout ∧ t.result = none)) ∨
        (s.op = some 0xE7#8 ∧ t.outcome = some .ok ∧ t.result.isSome) ∨
        (s.op = some 0xE6#8 ∧ t.outcome = some .ok ∧ t.result = none))

/-! ## Every step -/

/-- The invariant of the machine holds after reset. -/
def Obligations.InvariantHoldsAtReset : Prop := Inv State.reset

/-- Every step keeps the invariant: each phase finds the operation it belongs to and every register it reads, `ATT` never
exceeds `N_POLL`, CRCV's registers are those of a completed run, and a value is held only beside `OK`, validated and
corrected (R22, R24, R27, R30, R150). -/
def Obligations.EveryStepKeepsInvariant : Prop := ∀ s t : State, Inv s → step s = .next t → Inv t

/-- R77, R148: under the fairness premise every state of the invariant has a next state; without it a step can stop only
because a call never returns. -/
def Obligations.BlockIsNeverStuck : Prop :=
  (∀ s : State, Inv s → Fair s → ∃ t, step s = .next t ∧ Fair t) ∧
  (∀ s : State, Inv s → (∃ t, step s = .next t) ∨ step s = .fault .capabilityNeverReturns)

/-- What no step changes (R25, R71, R75, R233): the parameters; while an operation runs, `OP`, `ARG` and the host's
requests. Events are only added, and a request is taken one at a time, from the front. -/
def Obligations.EveryStepFrame : Prop :=
  ∀ s t : State, step s = .next t →
    t.cfg = s.cfg ∧ (∃ es, t.trace = s.trace ++ es) ∧
    (s.phase ≠ .idle → t.op = s.op ∧ t.arg = s.arg ∧ t.requests = s.requests) ∧
    (t.requests = s.requests ∨ ∃ r, s.requests = r :: t.requests) ∧ s.draws ≤ t.draws ∧
    (Fair s → Fair t)

/-- R50, R58 to R61, R168, R175 to R177: the only bus traffic a step can cause. Every access goes to device 0x40; the only
command bytes are 0xE3, 0xE5, 0xE7, and 0xE6 with one data byte, which only `SETRES` writes. -/
def Obligations.OnlyLegalBusTraffic : Prop :=
  ∀ s t : State, step s = .next t →
    (∀ e ∈ newEvents s t, LegalEvent s.cfg e) ∧
    (∀ addr data, Event.write addr [0xE6#8, data] ∈ newEvents s t →
      s.phase = .sWrite ∧ s.current = .setres s.readArg ∧ data = s.readMerged)

/-! ## Whole operations -/

/-- R149: a measurement ends within `7 + N_POLL` steps of SEQ from acceptance, a timeout after exactly `3 + N_POLL`,
whatever the environment answers, as long as every call returns. -/
def Obligations.MeasurementEndsWithinBudget : Prop :=
  ∀ s : State, Inv s → Fair s → s.phase = .mCmd →
    ∃ (k : Nat) (t : State), k ≤ 7 + s.cfg.nPoll ∧ Host.Core.run Sys2Proof.core k s = .next t ∧ t.phase = .idle ∧
      (t.outcome = some .timeout → k = 3 + s.cfg.nPoll) ∧
      (∀ j, j < k → ∃ u : State, Host.Core.run Sys2Proof.core j s = .next u ∧ u.phase ≠ .idle)

/-- R147, R150, R207: the only event traces of a measurement, and the response that goes with each. -/
def Obligations.MeasurementTraces : Prop :=
  ∀ (s : State) (o : Byte), Inv s → Fair s → s.phase = .mCmd → s.op = some o →
    ∃ (k : Nat) (t : State) (ns : List Nat), Host.Core.run Sys2Proof.core k s = .next t ∧ t.phase = .idle ∧
      (∀ j, j < k → ∃ u : State, Host.Core.run Sys2Proof.core j s = .next u ∧ u.phase ≠ .idle) ∧
      (∀ n ∈ ns, n < 3) ∧
      ((t.outcome = some .timeout ∧ t.result = none ∧ ns.length = s.cfg.nPoll ∧
          t.trace = s.trace ++ [.write 0x40#7 [o], .sleep s.cfg.tSettleMs, .request 0x40#7 3] ++
            failedPolls s.cfg ns) ∨
        (∃ (n : Nat) (b0 b1 b2 : Byte), 3 ≤ n ∧ ns.length < s.cfg.nPoll ∧
          t.trace = s.trace ++ [.write 0x40#7 [o], .sleep s.cfg.tSettleMs, .request 0x40#7 3] ++
            failedPolls s.cfg ns ++ [.avail n, .fetch [b0, b1, b2]] ∧
          ((validate (b0 ++ b1) b2 = true ∧ t.outcome = some .ok ∧ t.result = some ((b0 ++ b1) &&& 0xFFFC#16)) ∨
            (validate (b0 ++ b1) b2 = false ∧ t.outcome = some .checksumFailure ∧ t.result = none))))

/-- R145, R146 from acceptance to response: with fewer than `N_POLL` failed attempts before the bytes are there and a
valid message, the measurement returns the corrected reading, with exactly these events. -/
def Obligations.MeasurementReturnsValidReading : Prop :=
  ∀ (i : Instr) (s : State) (rs : List Request) (ns rest : List Nat) (n : Nat) (b0 b1 b2 : Byte) (bs : List Byte),
    IsMeasurement i → Fair s → s.phase = .idle → s.requests = encode i :: rs →
    s.avails = ns ++ n :: rest → (∀ m ∈ ns, m < 3) → ns.length < s.cfg.nPoll → 3 ≤ n →
    s.bytes = b0 :: b1 :: b2 :: bs → b2 = crc8 (b0 ++ b1) →
    ∃ t : State, Host.Core.run Sys2Proof.core (9 + ns.length) s = .next t ∧ t.phase = .idle ∧
      t.response = some { outcome := .ok, value := some ((b0 ++ b1) &&& 0xFFFC#16) } ∧
      (∃ code, (i.mnemonic = "MEAS.T" ∧ code = 0xE3#8 ∨ i.mnemonic = "MEAS.RH" ∧ code = 0xE5#8) ∧
        t.trace = s.trace ++ [.write 0x40#7 [code], .sleep s.cfg.tSettleMs, .request 0x40#7 3] ++
          failedPolls s.cfg ns ++ [.avail n, .fetch [b0, b1, b2]]) ∧
      t.att = some ns.length ∧ t.requests = rs ∧ t.avails = rest ∧ t.bytes = bs ∧ t.cfg = s.cfg

/-- R202, R207 from acceptance to response: three bytes whose third is not the CRC of the first two end in
`ChecksumFailure` without a value. -/
def Obligations.MeasurementRejectsBadCheckByte : Prop :=
  ∀ (i : Instr) (s : State) (rs : List Request) (ns rest : List Nat) (n : Nat) (b0 b1 b2 : Byte) (bs : List Byte),
    IsMeasurement i → Fair s → s.phase = .idle → s.requests = encode i :: rs →
    s.avails = ns ++ n :: rest → (∀ m ∈ ns, m < 3) → ns.length < s.cfg.nPoll → 3 ≤ n →
    s.bytes = b0 :: b1 :: b2 :: bs → b2 ≠ crc8 (b0 ++ b1) →
    ∃ t : State, Host.Core.run Sys2Proof.core (8 + ns.length) s = .next t ∧ t.phase = .idle ∧
      t.response = some { outcome := .checksumFailure, value := none } ∧
      newEvents s t = [.write 0x40#7 [if i.mnemonic = "MEAS.T" then 0xE3#8 else 0xE5#8], .sleep s.cfg.tSettleMs,
        .request 0x40#7 3] ++ failedPolls s.cfg ns ++ [.avail n, .fetch [b0, b1, b2]] ∧
      t.requests = rs ∧ t.avails = rest ∧ t.bytes = bs

/-- R78 (`HonestSensor`), R145, R146: an honest sensor's reading comes back with its status bits cleared. -/
def Obligations.HonestSensorIsRead : Prop :=
  ∀ (i : Instr) (s : State) (rs : List Request) (p : Reading),
    IsMeasurement i → Fair s → 1 ≤ s.cfg.nPoll → s.phase = .idle → s.requests = encode i :: rs → HonestSensor p s →
    ∃ t : State, Host.Core.run Sys2Proof.core 9 s = .next t ∧
      t.response = some { outcome := .ok, value := some (p &&& 0xFFFC#16) } ∧ t.requests = rs

/-- R78 (`SilentBus`), R201, R207: a silent bus ends in `Timeout` after exactly `N_POLL` checks and `N_POLL` poll sleeps,
with nothing fetched. -/
def Obligations.SilentBusTimesOut : Prop :=
  ∀ (i : Instr) (s : State) (rs : List Request),
    IsMeasurement i → Fair s → 1 ≤ s.cfg.nPoll → s.phase = .idle → s.requests = encode i :: rs → SilentBus s →
    ∃ t : State, Host.Core.run Sys2Proof.core (4 + s.cfg.nPoll) s = .next t ∧
      t.response = some { outcome := .timeout, value := none } ∧
      newEvents s t = [.write 0x40#7 [if i.mnemonic = "MEAS.T" then 0xE3#8 else 0xE5#8], .sleep s.cfg.tSettleMs,
        .request 0x40#7 3] ++ failedPolls s.cfg (s.avails.take s.cfg.nPoll) ∧
      t.att = some s.cfg.nPoll ∧ t.avails = s.avails.drop s.cfg.nPoll ∧ t.bytes = s.bytes ∧ t.requests = rs

/-- R160 from acceptance to response: `RDREG` returns the byte the bus gave, zero-extended, whatever the byte is. -/
def Obligations.RegisterReadReturnsByte : Prop :=
  ∀ (s : State) (a : Byte) (rs : List Request), Fair s → s.phase = .idle → s.requests = encode (.rdreg a) :: rs →
    ∃ t : State, Host.Core.run Sys2Proof.core 4 s = .next t ∧
      t.response = some { outcome := .ok, value := some (s.takeByte.1.setWidth 16) } ∧
      newEvents s t = [.write 0x40#7 [0xE7#8], .request 0x40#7 1, .fetch [s.takeByte.1]] ∧ t.requests = rs

/-- R163 from acceptance to response: `SETRES` writes back the byte read with only the field replaced, and answers `OK`
without a value. -/
def Obligations.ResolutionUpdateWritesBack : Prop :=
  ∀ (s : State) (a : Byte) (rs : List Request), Fair s → s.phase = .idle → s.requests = encode (.setres a) :: rs →
    ∃ (t : State) (w : Byte), Host.Core.run Sys2Proof.core 5 s = .next t ∧
      t.response = some { outcome := .ok, value := none } ∧
      newEvents s t =
        [.write 0x40#7 [0xE7#8], .request 0x40#7 1, .fetch [s.takeByte.1], .write 0x40#7 [0xE6#8, w]] ∧
      w &&& ~~~s.cfg.resMask = s.takeByte.1 &&& ~~~s.cfg.resMask ∧ w &&& s.cfg.resMask = a &&& s.cfg.resMask ∧
      t.requests = rs

/-! ## Software above the block -/

/-- R101, R245: the legacy numbers of the two errors, and no corrected reading is one of them. -/
def Obligations.LegacyNumbersNeverCollide : Prop :=
  OutcomeCode.checksumFailure.legacy = some 998 ∧ OutcomeCode.timeout.legacy = some 999 ∧
  (∀ (r : Reading) (e : OutcomeCode) (n : Nat), e.legacy = some n → (corrected r).toNat ≠ n)

/-- R186, R188, outside the hardware: the exact converters are strictly increasing, with the source's end points. -/
def Obligations.ConvertersAreStrictlyIncreasing : Prop :=
  (∀ a b : Reading, a.toNat < b.toNat →
    humidityFromRaw a < humidityFromRaw b ∧ temperatureFromRaw a < temperatureFromRaw b) ∧
  (∀ a : Reading, humidityFromRaw a = (125 * (a.toNat : Rat) - 393216) / 65536 ∧
    temperatureFromRaw a = -4685 / 100 + 17572 * (a.toNat : Rat) / 6553600)
end

