-- ==== Sys2Proof/Laws/State.lean ====
section
/-!
SUPPORT. One lemma per field per update of the state, so that no later proof unfolds a record update.
-/

namespace Sys2Proof.Machine

theorem fair_iff {s : State} : Fair s ↔ s.returnsLeft = none := Iff.rfl


/-! ## goto -/

@[simp] theorem State.goto_phase (p : Phase) (s : State) : (s.goto p).phase = p := rfl
@[simp] theorem State.goto_op (p : Phase) (s : State) : (s.goto p).op = s.op := rfl
@[simp] theorem State.goto_arg (p : Phase) (s : State) : (s.goto p).arg = s.arg := rfl
@[simp] theorem State.goto_att (p : Phase) (s : State) : (s.goto p).att = s.att := rfl
@[simp] theorem State.goto_b0 (p : Phase) (s : State) : (s.goto p).b0 = s.b0 := rfl
@[simp] theorem State.goto_b1 (p : Phase) (s : State) : (s.goto p).b1 = s.b1 := rfl
@[simp] theorem State.goto_b2 (p : Phase) (s : State) : (s.goto p).b2 = s.b2 := rfl
@[simp] theorem State.goto_raw (p : Phase) (s : State) : (s.goto p).raw = s.raw := rfl
@[simp] theorem State.goto_ureg (p : Phase) (s : State) : (s.goto p).ureg = s.ureg := rfl
@[simp] theorem State.goto_merged (p : Phase) (s : State) : (s.goto p).merged = s.merged := rfl
@[simp] theorem State.goto_outcome (p : Phase) (s : State) : (s.goto p).outcome = s.outcome := rfl
@[simp] theorem State.goto_result (p : Phase) (s : State) : (s.goto p).result = s.result := rfl
@[simp] theorem State.goto_rem (p : Phase) (s : State) : (s.goto p).rem = s.rem := rfl
@[simp] theorem State.goto_div (p : Phase) (s : State) : (s.goto p).div = s.div := rfl
@[simp] theorem State.goto_idx (p : Phase) (s : State) : (s.goto p).idx = s.idx := rfl
@[simp] theorem State.goto_valid (p : Phase) (s : State) : (s.goto p).valid = s.valid := rfl
@[simp] theorem State.goto_cfg (p : Phase) (s : State) : (s.goto p).cfg = s.cfg := rfl
@[simp] theorem State.goto_requests (p : Phase) (s : State) : (s.goto p).requests = s.requests := rfl
@[simp] theorem State.goto_avails (p : Phase) (s : State) : (s.goto p).avails = s.avails := rfl
@[simp] theorem State.goto_bytes (p : Phase) (s : State) : (s.goto p).bytes = s.bytes := rfl
@[simp] theorem State.goto_draws (p : Phase) (s : State) : (s.goto p).draws = s.draws := rfl
@[simp] theorem State.goto_returnsLeft (p : Phase) (s : State) : (s.goto p).returnsLeft = s.returnsLeft := rfl
@[simp] theorem State.goto_trace (p : Phase) (s : State) : (s.goto p).trace = s.trace := rfl

/-! ## record -/

@[simp] theorem State.record_phase (e : Event) (s : State) : (s.record e).phase = s.phase := rfl
@[simp] theorem State.record_op (e : Event) (s : State) : (s.record e).op = s.op := rfl
@[simp] theorem State.record_arg (e : Event) (s : State) : (s.record e).arg = s.arg := rfl
@[simp] theorem State.record_att (e : Event) (s : State) : (s.record e).att = s.att := rfl
@[simp] theorem State.record_b0 (e : Event) (s : State) : (s.record e).b0 = s.b0 := rfl
@[simp] theorem State.record_b1 (e : Event) (s : State) : (s.record e).b1 = s.b1 := rfl
@[simp] theorem State.record_b2 (e : Event) (s : State) : (s.record e).b2 = s.b2 := rfl
@[simp] theorem State.record_raw (e : Event) (s : State) : (s.record e).raw = s.raw := rfl
@[simp] theorem State.record_ureg (e : Event) (s : State) : (s.record e).ureg = s.ureg := rfl
@[simp] theorem State.record_merged (e : Event) (s : State) : (s.record e).merged = s.merged := rfl
@[simp] theorem State.record_outcome (e : Event) (s : State) : (s.record e).outcome = s.outcome := rfl
@[simp] theorem State.record_result (e : Event) (s : State) : (s.record e).result = s.result := rfl
@[simp] theorem State.record_rem (e : Event) (s : State) : (s.record e).rem = s.rem := rfl
@[simp] theorem State.record_div (e : Event) (s : State) : (s.record e).div = s.div := rfl
@[simp] theorem State.record_idx (e : Event) (s : State) : (s.record e).idx = s.idx := rfl
@[simp] theorem State.record_valid (e : Event) (s : State) : (s.record e).valid = s.valid := rfl
@[simp] theorem State.record_cfg (e : Event) (s : State) : (s.record e).cfg = s.cfg := rfl
@[simp] theorem State.record_requests (e : Event) (s : State) : (s.record e).requests = s.requests := rfl
@[simp] theorem State.record_avails (e : Event) (s : State) : (s.record e).avails = s.avails := rfl
@[simp] theorem State.record_bytes (e : Event) (s : State) : (s.record e).bytes = s.bytes := rfl
@[simp] theorem State.record_draws (e : Event) (s : State) : (s.record e).draws = s.draws := rfl
@[simp] theorem State.record_returnsLeft (e : Event) (s : State) : (s.record e).returnsLeft = s.returnsLeft := rfl
@[simp] theorem State.record_trace (e : Event) (s : State) : (s.record e).trace = s.trace ++ [e] := rfl

/-! ## latch -/

@[simp] theorem State.latch_phase (o a : Byte) (s : State) : (s.latch o a).phase = s.phase := rfl
@[simp] theorem State.latch_op (o a : Byte) (s : State) : (s.latch o a).op = some o := rfl
@[simp] theorem State.latch_arg (o a : Byte) (s : State) : (s.latch o a).arg = some a := rfl
@[simp] theorem State.latch_att (o a : Byte) (s : State) : (s.latch o a).att = none := rfl
@[simp] theorem State.latch_b0 (o a : Byte) (s : State) : (s.latch o a).b0 = none := rfl
@[simp] theorem State.latch_b1 (o a : Byte) (s : State) : (s.latch o a).b1 = none := rfl
@[simp] theorem State.latch_b2 (o a : Byte) (s : State) : (s.latch o a).b2 = none := rfl
@[simp] theorem State.latch_raw (o a : Byte) (s : State) : (s.latch o a).raw = none := rfl
@[simp] theorem State.latch_ureg (o a : Byte) (s : State) : (s.latch o a).ureg = none := rfl
@[simp] theorem State.latch_merged (o a : Byte) (s : State) : (s.latch o a).merged = none := rfl
@[simp] theorem State.latch_outcome (o a : Byte) (s : State) : (s.latch o a).outcome = none := rfl
@[simp] theorem State.latch_result (o a : Byte) (s : State) : (s.latch o a).result = none := rfl
@[simp] theorem State.latch_rem (o a : Byte) (s : State) : (s.latch o a).rem = none := rfl
@[simp] theorem State.latch_div (o a : Byte) (s : State) : (s.latch o a).div = none := rfl
@[simp] theorem State.latch_idx (o a : Byte) (s : State) : (s.latch o a).idx = none := rfl
@[simp] theorem State.latch_valid (o a : Byte) (s : State) : (s.latch o a).valid = none := rfl
@[simp] theorem State.latch_cfg (o a : Byte) (s : State) : (s.latch o a).cfg = s.cfg := rfl
@[simp] theorem State.latch_requests (o a : Byte) (s : State) : (s.latch o a).requests = s.requests := rfl
@[simp] theorem State.latch_avails (o a : Byte) (s : State) : (s.latch o a).avails = s.avails := rfl
@[simp] theorem State.latch_bytes (o a : Byte) (s : State) : (s.latch o a).bytes = s.bytes := rfl
@[simp] theorem State.latch_draws (o a : Byte) (s : State) : (s.latch o a).draws = s.draws := rfl
@[simp] theorem State.latch_returnsLeft (o a : Byte) (s : State) : (s.latch o a).returnsLeft = s.returnsLeft := rfl
@[simp] theorem State.latch_trace (o a : Byte) (s : State) : (s.latch o a).trace = s.trace := rfl

/-! ## raise -/

@[simp] theorem State.raise_phase (e : OutcomeCode) (s : State) : (s.raise e).phase = .idle := rfl
@[simp] theorem State.raise_op (e : OutcomeCode) (s : State) : (s.raise e).op = s.op := rfl
@[simp] theorem State.raise_arg (e : OutcomeCode) (s : State) : (s.raise e).arg = s.arg := rfl
@[simp] theorem State.raise_att (e : OutcomeCode) (s : State) : (s.raise e).att = s.att := rfl
@[simp] theorem State.raise_b0 (e : OutcomeCode) (s : State) : (s.raise e).b0 = s.b0 := rfl
@[simp] theorem State.raise_b1 (e : OutcomeCode) (s : State) : (s.raise e).b1 = s.b1 := rfl
@[simp] theorem State.raise_b2 (e : OutcomeCode) (s : State) : (s.raise e).b2 = s.b2 := rfl
@[simp] theorem State.raise_raw (e : OutcomeCode) (s : State) : (s.raise e).raw = s.raw := rfl
@[simp] theorem State.raise_ureg (e : OutcomeCode) (s : State) : (s.raise e).ureg = s.ureg := rfl
@[simp] theorem State.raise_merged (e : OutcomeCode) (s : State) : (s.raise e).merged = s.merged := rfl
@[simp] theorem State.raise_outcome (e : OutcomeCode) (s : State) : (s.raise e).outcome = some e := rfl
@[simp] theorem State.raise_result (e : OutcomeCode) (s : State) : (s.raise e).result = none := rfl
@[simp] theorem State.raise_rem (e : OutcomeCode) (s : State) : (s.raise e).rem = s.rem := rfl
@[simp] theorem State.raise_div (e : OutcomeCode) (s : State) : (s.raise e).div = s.div := rfl
@[simp] theorem State.raise_idx (e : OutcomeCode) (s : State) : (s.raise e).idx = s.idx := rfl
@[simp] theorem State.raise_valid (e : OutcomeCode) (s : State) : (s.raise e).valid = s.valid := rfl
@[simp] theorem State.raise_cfg (e : OutcomeCode) (s : State) : (s.raise e).cfg = s.cfg := rfl
@[simp] theorem State.raise_requests (e : OutcomeCode) (s : State) : (s.raise e).requests = s.requests := rfl
@[simp] theorem State.raise_avails (e : OutcomeCode) (s : State) : (s.raise e).avails = s.avails := rfl
@[simp] theorem State.raise_bytes (e : OutcomeCode) (s : State) : (s.raise e).bytes = s.bytes := rfl
@[simp] theorem State.raise_draws (e : OutcomeCode) (s : State) : (s.raise e).draws = s.draws := rfl
@[simp] theorem State.raise_returnsLeft (e : OutcomeCode) (s : State) : (s.raise e).returnsLeft = s.returnsLeft := rfl
@[simp] theorem State.raise_trace (e : OutcomeCode) (s : State) : (s.raise e).trace = s.trace := rfl

/-! ## returnOk -/

@[simp] theorem State.returnOk_phase (v : Option Reading) (s : State) : (s.returnOk v).phase = .idle := rfl
@[simp] theorem State.returnOk_op (v : Option Reading) (s : State) : (s.returnOk v).op = s.op := rfl
@[simp] theorem State.returnOk_arg (v : Option Reading) (s : State) : (s.returnOk v).arg = s.arg := rfl
@[simp] theorem State.returnOk_att (v : Option Reading) (s : State) : (s.returnOk v).att = s.att := rfl
@[simp] theorem State.returnOk_b0 (v : Option Reading) (s : State) : (s.returnOk v).b0 = s.b0 := rfl
@[simp] theorem State.returnOk_b1 (v : Option Reading) (s : State) : (s.returnOk v).b1 = s.b1 := rfl
@[simp] theorem State.returnOk_b2 (v : Option Reading) (s : State) : (s.returnOk v).b2 = s.b2 := rfl
@[simp] theorem State.returnOk_raw (v : Option Reading) (s : State) : (s.returnOk v).raw = s.raw := rfl
@[simp] theorem State.returnOk_ureg (v : Option Reading) (s : State) : (s.returnOk v).ureg = s.ureg := rfl
@[simp] theorem State.returnOk_merged (v : Option Reading) (s : State) : (s.returnOk v).merged = s.merged := rfl
@[simp] theorem State.returnOk_outcome (v : Option Reading) (s : State) : (s.returnOk v).outcome = some .ok := rfl
@[simp] theorem State.returnOk_result (v : Option Reading) (s : State) : (s.returnOk v).result = v := rfl
@[simp] theorem State.returnOk_rem (v : Option Reading) (s : State) : (s.returnOk v).rem = s.rem := rfl
@[simp] theorem State.returnOk_div (v : Option Reading) (s : State) : (s.returnOk v).div = s.div := rfl
@[simp] theorem State.returnOk_idx (v : Option Reading) (s : State) : (s.returnOk v).idx = s.idx := rfl
@[simp] theorem State.returnOk_valid (v : Option Reading) (s : State) : (s.returnOk v).valid = s.valid := rfl
@[simp] theorem State.returnOk_cfg (v : Option Reading) (s : State) : (s.returnOk v).cfg = s.cfg := rfl
@[simp] theorem State.returnOk_requests (v : Option Reading) (s : State) : (s.returnOk v).requests = s.requests := rfl
@[simp] theorem State.returnOk_avails (v : Option Reading) (s : State) : (s.returnOk v).avails = s.avails := rfl
@[simp] theorem State.returnOk_bytes (v : Option Reading) (s : State) : (s.returnOk v).bytes = s.bytes := rfl
@[simp] theorem State.returnOk_draws (v : Option Reading) (s : State) : (s.returnOk v).draws = s.draws := rfl
@[simp] theorem State.returnOk_returnsLeft (v : Option Reading) (s : State) : (s.returnOk v).returnsLeft = s.returnsLeft := rfl
@[simp] theorem State.returnOk_trace (v : Option Reading) (s : State) : (s.returnOk v).trace = s.trace := rfl

/-! ## runCrcv -/

@[simp] theorem State.runCrcv_phase (p : Reading) (c : Byte) (s : State) : (s.runCrcv p c).phase = s.phase := rfl
@[simp] theorem State.runCrcv_op (p : Reading) (c : Byte) (s : State) : (s.runCrcv p c).op = s.op := rfl
@[simp] theorem State.runCrcv_arg (p : Reading) (c : Byte) (s : State) : (s.runCrcv p c).arg = s.arg := rfl
@[simp] theorem State.runCrcv_att (p : Reading) (c : Byte) (s : State) : (s.runCrcv p c).att = s.att := rfl
@[simp] theorem State.runCrcv_b0 (p : Reading) (c : Byte) (s : State) : (s.runCrcv p c).b0 = s.b0 := rfl
@[simp] theorem State.runCrcv_b1 (p : Reading) (c : Byte) (s : State) : (s.runCrcv p c).b1 = s.b1 := rfl
@[simp] theorem State.runCrcv_b2 (p : Reading) (c : Byte) (s : State) : (s.runCrcv p c).b2 = s.b2 := rfl
@[simp] theorem State.runCrcv_raw (p : Reading) (c : Byte) (s : State) : (s.runCrcv p c).raw = s.raw := rfl
@[simp] theorem State.runCrcv_ureg (p : Reading) (c : Byte) (s : State) : (s.runCrcv p c).ureg = s.ureg := rfl
@[simp] theorem State.runCrcv_merged (p : Reading) (c : Byte) (s : State) : (s.runCrcv p c).merged = s.merged := rfl
@[simp] theorem State.runCrcv_outcome (p : Reading) (c : Byte) (s : State) : (s.runCrcv p c).outcome = s.outcome := rfl
@[simp] theorem State.runCrcv_result (p : Reading) (c : Byte) (s : State) : (s.runCrcv p c).result = s.result := rfl
@[simp] theorem State.runCrcv_rem (p : Reading) (c : Byte) (s : State) : (s.runCrcv p c).rem = some (remainderOf (datagram p c)) := rfl
@[simp] theorem State.runCrcv_div (p : Reading) (c : Byte) (s : State) : (s.runCrcv p c).div = some (crcRun (datagram p c)).div := rfl
@[simp] theorem State.runCrcv_idx (p : Reading) (c : Byte) (s : State) : (s.runCrcv p c).idx = some (crcRun (datagram p c)).idx := rfl
@[simp] theorem State.runCrcv_valid (p : Reading) (c : Byte) (s : State) : (s.runCrcv p c).valid = some (validate p c) := rfl
@[simp] theorem State.runCrcv_cfg (p : Reading) (c : Byte) (s : State) : (s.runCrcv p c).cfg = s.cfg := rfl
@[simp] theorem State.runCrcv_requests (p : Reading) (c : Byte) (s : State) : (s.runCrcv p c).requests = s.requests := rfl
@[simp] theorem State.runCrcv_avails (p : Reading) (c : Byte) (s : State) : (s.runCrcv p c).avails = s.avails := rfl
@[simp] theorem State.runCrcv_bytes (p : Reading) (c : Byte) (s : State) : (s.runCrcv p c).bytes = s.bytes := rfl
@[simp] theorem State.runCrcv_draws (p : Reading) (c : Byte) (s : State) : (s.runCrcv p c).draws = s.draws := rfl
@[simp] theorem State.runCrcv_returnsLeft (p : Reading) (c : Byte) (s : State) : (s.runCrcv p c).returnsLeft = s.returnsLeft := rfl
@[simp] theorem State.runCrcv_trace (p : Reading) (c : Byte) (s : State) : (s.runCrcv p c).trace = s.trace := rfl

/-! ## load -/

@[simp] theorem State.load_phase (p : Program) (s : State) : (s.load p).phase = s.phase := rfl
@[simp] theorem State.load_op (p : Program) (s : State) : (s.load p).op = s.op := rfl
@[simp] theorem State.load_arg (p : Program) (s : State) : (s.load p).arg = s.arg := rfl
@[simp] theorem State.load_att (p : Program) (s : State) : (s.load p).att = s.att := rfl
@[simp] theorem State.load_b0 (p : Program) (s : State) : (s.load p).b0 = s.b0 := rfl
@[simp] theorem State.load_b1 (p : Program) (s : State) : (s.load p).b1 = s.b1 := rfl
@[simp] theorem State.load_b2 (p : Program) (s : State) : (s.load p).b2 = s.b2 := rfl
@[simp] theorem State.load_raw (p : Program) (s : State) : (s.load p).raw = s.raw := rfl
@[simp] theorem State.load_ureg (p : Program) (s : State) : (s.load p).ureg = s.ureg := rfl
@[simp] theorem State.load_merged (p : Program) (s : State) : (s.load p).merged = s.merged := rfl
@[simp] theorem State.load_outcome (p : Program) (s : State) : (s.load p).outcome = s.outcome := rfl
@[simp] theorem State.load_result (p : Program) (s : State) : (s.load p).result = s.result := rfl
@[simp] theorem State.load_rem (p : Program) (s : State) : (s.load p).rem = s.rem := rfl
@[simp] theorem State.load_div (p : Program) (s : State) : (s.load p).div = s.div := rfl
@[simp] theorem State.load_idx (p : Program) (s : State) : (s.load p).idx = s.idx := rfl
@[simp] theorem State.load_valid (p : Program) (s : State) : (s.load p).valid = s.valid := rfl
@[simp] theorem State.load_cfg (p : Program) (s : State) : (s.load p).cfg = s.cfg := rfl
@[simp] theorem State.load_requests (p : Program) (s : State) : (s.load p).requests = p.lines.map encode := rfl
@[simp] theorem State.load_avails (p : Program) (s : State) : (s.load p).avails = p.avails := rfl
@[simp] theorem State.load_bytes (p : Program) (s : State) : (s.load p).bytes = p.bytes := rfl
@[simp] theorem State.load_draws (p : Program) (s : State) : (s.load p).draws = s.draws := rfl
@[simp] theorem State.load_returnsLeft (p : Program) (s : State) : (s.load p).returnsLeft = s.returnsLeft := rfl
@[simp] theorem State.load_trace (p : Program) (s : State) : (s.load p).trace = s.trace := rfl

/-! ## takeAvail -/

@[simp] theorem State.takeAvail_phase (s : State) : s.takeAvail.2.phase = s.phase := by unfold State.takeAvail; split <;> rfl
@[simp] theorem State.takeAvail_op (s : State) : s.takeAvail.2.op = s.op := by unfold State.takeAvail; split <;> rfl
@[simp] theorem State.takeAvail_arg (s : State) : s.takeAvail.2.arg = s.arg := by unfold State.takeAvail; split <;> rfl
@[simp] theorem State.takeAvail_att (s : State) : s.takeAvail.2.att = s.att := by unfold State.takeAvail; split <;> rfl
@[simp] theorem State.takeAvail_b0 (s : State) : s.takeAvail.2.b0 = s.b0 := by unfold State.takeAvail; split <;> rfl
@[simp] theorem State.takeAvail_b1 (s : State) : s.takeAvail.2.b1 = s.b1 := by unfold State.takeAvail; split <;> rfl
@[simp] theorem State.takeAvail_b2 (s : State) : s.takeAvail.2.b2 = s.b2 := by unfold State.takeAvail; split <;> rfl
@[simp] theorem State.takeAvail_raw (s : State) : s.takeAvail.2.raw = s.raw := by unfold State.takeAvail; split <;> rfl
@[simp] theorem State.takeAvail_ureg (s : State) : s.takeAvail.2.ureg = s.ureg := by unfold State.takeAvail; split <;> rfl
@[simp] theorem State.takeAvail_merged (s : State) : s.takeAvail.2.merged = s.merged := by unfold State.takeAvail; split <;> rfl
@[simp] theorem State.takeAvail_outcome (s : State) : s.takeAvail.2.outcome = s.outcome := by unfold State.takeAvail; split <;> rfl
@[simp] theorem State.takeAvail_result (s : State) : s.takeAvail.2.result = s.result := by unfold State.takeAvail; split <;> rfl
@[simp] theorem State.takeAvail_rem (s : State) : s.takeAvail.2.rem = s.rem := by unfold State.takeAvail; split <;> rfl
@[simp] theorem State.takeAvail_div (s : State) : s.takeAvail.2.div = s.div := by unfold State.takeAvail; split <;> rfl
@[simp] theorem State.takeAvail_idx (s : State) : s.takeAvail.2.idx = s.idx := by unfold State.takeAvail; split <;> rfl
@[simp] theorem State.takeAvail_valid (s : State) : s.takeAvail.2.valid = s.valid := by unfold State.takeAvail; split <;> rfl
@[simp] theorem State.takeAvail_cfg (s : State) : s.takeAvail.2.cfg = s.cfg := by unfold State.takeAvail; split <;> rfl
@[simp] theorem State.takeAvail_requests (s : State) : s.takeAvail.2.requests = s.requests := by unfold State.takeAvail; split <;> rfl
@[simp] theorem State.takeAvail_bytes (s : State) : s.takeAvail.2.bytes = s.bytes := by unfold State.takeAvail; split <;> rfl
@[simp] theorem State.takeAvail_returnsLeft (s : State) : s.takeAvail.2.returnsLeft = s.returnsLeft := by unfold State.takeAvail; split <;> rfl
@[simp] theorem State.takeAvail_trace (s : State) : s.takeAvail.2.trace = s.trace := by unfold State.takeAvail; split <;> rfl

/-! ## takeByte -/

@[simp] theorem State.takeByte_phase (s : State) : s.takeByte.2.phase = s.phase := by unfold State.takeByte; split <;> rfl
@[simp] theorem State.takeByte_op (s : State) : s.takeByte.2.op = s.op := by unfold State.takeByte; split <;> rfl
@[simp] theorem State.takeByte_arg (s : State) : s.takeByte.2.arg = s.arg := by unfold State.takeByte; split <;> rfl
@[simp] theorem State.takeByte_att (s : State) : s.takeByte.2.att = s.att := by unfold State.takeByte; split <;> rfl
@[simp] theorem State.takeByte_b0 (s : State) : s.takeByte.2.b0 = s.b0 := by unfold State.takeByte; split <;> rfl
@[simp] theorem State.takeByte_b1 (s : State) : s.takeByte.2.b1 = s.b1 := by unfold State.takeByte; split <;> rfl
@[simp] theorem State.takeByte_b2 (s : State) : s.takeByte.2.b2 = s.b2 := by unfold State.takeByte; split <;> rfl
@[simp] theorem State.takeByte_raw (s : State) : s.takeByte.2.raw = s.raw := by unfold State.takeByte; split <;> rfl
@[simp] theorem State.takeByte_ureg (s : State) : s.takeByte.2.ureg = s.ureg := by unfold State.takeByte; split <;> rfl
@[simp] theorem State.takeByte_merged (s : State) : s.takeByte.2.merged = s.merged := by unfold State.takeByte; split <;> rfl
@[simp] theorem State.takeByte_outcome (s : State) : s.takeByte.2.outcome = s.outcome := by unfold State.takeByte; split <;> rfl
@[simp] theorem State.takeByte_result (s : State) : s.takeByte.2.result = s.result := by unfold State.takeByte; split <;> rfl
@[simp] theorem State.takeByte_rem (s : State) : s.takeByte.2.rem = s.rem := by unfold State.takeByte; split <;> rfl
@[simp] theorem State.takeByte_div (s : State) : s.takeByte.2.div = s.div := by unfold State.takeByte; split <;> rfl
@[simp] theorem State.takeByte_idx (s : State) : s.takeByte.2.idx = s.idx := by unfold State.takeByte; split <;> rfl
@[simp] theorem State.takeByte_valid (s : State) : s.takeByte.2.valid = s.valid := by unfold State.takeByte; split <;> rfl
@[simp] theorem State.takeByte_cfg (s : State) : s.takeByte.2.cfg = s.cfg := by unfold State.takeByte; split <;> rfl
@[simp] theorem State.takeByte_requests (s : State) : s.takeByte.2.requests = s.requests := by unfold State.takeByte; split <;> rfl
@[simp] theorem State.takeByte_avails (s : State) : s.takeByte.2.avails = s.avails := by unfold State.takeByte; split <;> rfl
@[simp] theorem State.takeByte_returnsLeft (s : State) : s.takeByte.2.returnsLeft = s.returnsLeft := by unfold State.takeByte; split <;> rfl
@[simp] theorem State.takeByte_trace (s : State) : s.takeByte.2.trace = s.trace := by unfold State.takeByte; split <;> rfl

/-! ## takeThree -/

@[simp] theorem State.takeThree_phase (s : State) : s.takeThree.2.phase = s.phase := by simp [State.takeThree]
@[simp] theorem State.takeThree_op (s : State) : s.takeThree.2.op = s.op := by simp [State.takeThree]
@[simp] theorem State.takeThree_arg (s : State) : s.takeThree.2.arg = s.arg := by simp [State.takeThree]
@[simp] theorem State.takeThree_att (s : State) : s.takeThree.2.att = s.att := by simp [State.takeThree]
@[simp] theorem State.takeThree_b0 (s : State) : s.takeThree.2.b0 = s.b0 := by simp [State.takeThree]
@[simp] theorem State.takeThree_b1 (s : State) : s.takeThree.2.b1 = s.b1 := by simp [State.takeThree]
@[simp] theorem State.takeThree_b2 (s : State) : s.takeThree.2.b2 = s.b2 := by simp [State.takeThree]
@[simp] theorem State.takeThree_raw (s : State) : s.takeThree.2.raw = s.raw := by simp [State.takeThree]
@[simp] theorem State.takeThree_ureg (s : State) : s.takeThree.2.ureg = s.ureg := by simp [State.takeThree]
@[simp] theorem State.takeThree_merged (s : State) : s.takeThree.2.merged = s.merged := by simp [State.takeThree]
@[simp] theorem State.takeThree_outcome (s : State) : s.takeThree.2.outcome = s.outcome := by simp [State.takeThree]
@[simp] theorem State.takeThree_result (s : State) : s.takeThree.2.result = s.result := by simp [State.takeThree]
@[simp] theorem State.takeThree_rem (s : State) : s.takeThree.2.rem = s.rem := by simp [State.takeThree]
@[simp] theorem State.takeThree_div (s : State) : s.takeThree.2.div = s.div := by simp [State.takeThree]
@[simp] theorem State.takeThree_idx (s : State) : s.takeThree.2.idx = s.idx := by simp [State.takeThree]
@[simp] theorem State.takeThree_valid (s : State) : s.takeThree.2.valid = s.valid := by simp [State.takeThree]
@[simp] theorem State.takeThree_cfg (s : State) : s.takeThree.2.cfg = s.cfg := by simp [State.takeThree]
@[simp] theorem State.takeThree_requests (s : State) : s.takeThree.2.requests = s.requests := by simp [State.takeThree]
@[simp] theorem State.takeThree_avails (s : State) : s.takeThree.2.avails = s.avails := by simp [State.takeThree]
@[simp] theorem State.takeThree_returnsLeft (s : State) : s.takeThree.2.returnsLeft = s.returnsLeft := by simp [State.takeThree]
@[simp] theorem State.takeThree_trace (s : State) : s.takeThree.2.trace = s.trace := by simp [State.takeThree]

/-! ## countFailedPoll -/

@[simp] theorem countFailedPoll_op (s : State) : (countFailedPoll s).op = s.op := by
  unfold countFailedPoll; simp only []; split <;> rfl
@[simp] theorem countFailedPoll_arg (s : State) : (countFailedPoll s).arg = s.arg := by
  unfold countFailedPoll; simp only []; split <;> rfl
@[simp] theorem countFailedPoll_b0 (s : State) : (countFailedPoll s).b0 = s.b0 := by
  unfold countFailedPoll; simp only []; split <;> rfl
@[simp] theorem countFailedPoll_b1 (s : State) : (countFailedPoll s).b1 = s.b1 := by
  unfold countFailedPoll; simp only []; split <;> rfl
@[simp] theorem countFailedPoll_b2 (s : State) : (countFailedPoll s).b2 = s.b2 := by
  unfold countFailedPoll; simp only []; split <;> rfl
@[simp] theorem countFailedPoll_raw (s : State) : (countFailedPoll s).raw = s.raw := by
  unfold countFailedPoll; simp only []; split <;> rfl
@[simp] theorem countFailedPoll_ureg (s : State) : (countFailedPoll s).ureg = s.ureg := by
  unfold countFailedPoll; simp only []; split <;> rfl
@[simp] theorem countFailedPoll_merged (s : State) : (countFailedPoll s).merged = s.merged := by
  unfold countFailedPoll; simp only []; split <;> rfl
@[simp] theorem countFailedPoll_rem (s : State) : (countFailedPoll s).rem = s.rem := by
  unfold countFailedPoll; simp only []; split <;> rfl
@[simp] theorem countFailedPoll_div (s : State) : (countFailedPoll s).div = s.div := by
  unfold countFailedPoll; simp only []; split <;> rfl
@[simp] theorem countFailedPoll_idx (s : State) : (countFailedPoll s).idx = s.idx := by
  unfold countFailedPoll; simp only []; split <;> rfl
@[simp] theorem countFailedPoll_valid (s : State) : (countFailedPoll s).valid = s.valid := by
  unfold countFailedPoll; simp only []; split <;> rfl
@[simp] theorem countFailedPoll_cfg (s : State) : (countFailedPoll s).cfg = s.cfg := by
  unfold countFailedPoll; simp only []; split <;> rfl
@[simp] theorem countFailedPoll_requests (s : State) : (countFailedPoll s).requests = s.requests := by
  unfold countFailedPoll; simp only []; split <;> rfl
@[simp] theorem countFailedPoll_avails (s : State) : (countFailedPoll s).avails = s.avails := by
  unfold countFailedPoll; simp only []; split <;> rfl
@[simp] theorem countFailedPoll_bytes (s : State) : (countFailedPoll s).bytes = s.bytes := by
  unfold countFailedPoll; simp only []; split <;> rfl
@[simp] theorem countFailedPoll_draws (s : State) : (countFailedPoll s).draws = s.draws := by
  unfold countFailedPoll; simp only []; split <;> rfl
@[simp] theorem countFailedPoll_returnsLeft (s : State) : (countFailedPoll s).returnsLeft = s.returnsLeft := by
  unfold countFailedPoll; simp only []; split <;> rfl
@[simp] theorem countFailedPoll_trace (s : State) : (countFailedPoll s).trace = s.trace := by
  unfold countFailedPoll; simp only []; split <;> rfl
@[simp] theorem countFailedPoll_att (s : State) : (countFailedPoll s).att = some (s.readAtt + 1) := by
  unfold countFailedPoll; simp only []; split <;> rfl

end Sys2Proof.Machine
end

