-- ==== Sys2Proof/Laws/Crcv.lean ====
section
/-!
SUPPORT. CRCV's micro-steps field by field, and the run as sixteen iterations.
-/

namespace Sys2Proof.Machine

@[simp] theorem crcInit_rem (m : Datagram) : (crcInit m).rem = m := rfl
@[simp] theorem crcInit_div (m : Datagram) : (crcInit m).div = Config.div0 := rfl
@[simp] theorem crcInit_idx (m : Datagram) : (crcInit m).idx = 0 := rfl

theorem crcIterate_rem (c : CrcRegs) :
    (crcIterate c).rem = if c.rem.getLsbD (23 - c.idx) then c.rem ^^^ c.div else c.rem := rfl
@[simp] theorem crcIterate_div (c : CrcRegs) : (crcIterate c).div = c.div >>> 1 := rfl
@[simp] theorem crcIterate_idx (c : CrcRegs) : (crcIterate c).idx = c.idx + 1 := rfl

@[simp] theorem crcResult_rem (c : CrcRegs) : (crcResult c).rem = c.rem := rfl
@[simp] theorem crcResult_div (c : CrcRegs) : (crcResult c).div = c.div := rfl
@[simp] theorem crcResult_idx (c : CrcRegs) : (crcResult c).idx = c.idx := rfl
@[simp] theorem crcResult_valid (c : CrcRegs) : (crcResult c).valid = some (remainderAccepts c.rem) := rfl

theorem crcIterations_succ (m : Datagram) (k : Nat) :
    crcIterations m (k + 1) = crcIterate (crcIterations m k) := rfl

/-- The index counts the iterations done (R40). -/
@[simp] theorem crcIterations_idx (m : Datagram) (k : Nat) : (crcIterations m k).idx = k := by
  induction k with
  | zero => rfl
  | succ k ih => rw [crcIterations_succ, crcIterate_idx, ih]

/-- The divisor is shifted once per iteration, whatever the data (R39). -/
theorem crcIterations_div (m : Datagram) (k : Nat) : (crcIterations m k).div = Config.div0 >>> k := by
  induction k with
  | zero => rfl
  | succ k ih => rw [crcIterations_succ, crcIterate_div, ih, BitVec.shiftRight_add]

/-- The remainder after one more iteration, in terms of the one before (R113). -/
theorem crcIterations_rem_succ (m : Datagram) (k : Nat) :
    (crcIterations m (k + 1)).rem =
      if (crcIterations m k).rem.getLsbD (23 - k) then (crcIterations m k).rem ^^^ (Config.div0 >>> k)
      else (crcIterations m k).rem := by
  rw [crcIterations_succ, crcIterate_rem, crcIterations_idx, crcIterations_div]

theorem remainderOf_eq (m : Datagram) : remainderOf m = (crcIterations m 16).rem := rfl

/-- After a run the divisor is 0x000098, whatever the data (R39). -/
theorem crcRun_div (m : Datagram) : (crcRun m).div = 0x000098#24 := by
  show (crcIterations m 16).div = _
  rw [crcIterations_div]
  rfl

/-- After a run the index is 16 (R40). -/
theorem crcRun_idx (m : Datagram) : (crcRun m).idx = 16 := by
  show (crcIterations m 16).idx = _
  simp

/-- The verdict of a run is the one `validate` gives (R115, R117). -/
theorem crcRun_valid (payload : Reading) (check : Byte) :
    (crcRun (datagram payload check)).valid = some (validate payload check) := rfl

end Sys2Proof.Machine
end

