-- ==== Sys2Proof/Laws/Decode.lean ====
section
/-!
SUPPORT. The fields of the words the encoder writes, and the decoder on each code.
-/

namespace Sys2Proof

theorem hreqOp_append (op arg : Byte) : hreqOp (op ++ arg) = op := BitVec.extractLsb'_append_eq_left

theorem hreqArg_append (op arg : Byte) : hreqArg (op ++ arg) = arg := BitVec.extractLsb'_append_eq_right

theorem dgramPayload_append (payload : Reading) (check : Byte) : dgramPayload (payload ++ check) = payload :=
  BitVec.extractLsb'_append_eq_left

theorem dgramCheck_append (payload : Reading) (check : Byte) : dgramCheck (payload ++ check) = check :=
  BitVec.extractLsb'_append_eq_right

/-- A host request is its two fields. -/
theorem hreq_fields (w : BitVec 16) : hreqOp w ++ hreqArg w = w := by
  apply BitVec.eq_of_getLsbD_eq
  intro i hi
  rw [BitVec.getLsbD_append, hreqOp, hreqArg, BitVec.getLsbD_extractLsb', BitVec.getLsbD_extractLsb']
  by_cases h : i < 8
  · simp [h]
  · have : 8 + (i - 8) = i := by omega
    have hi' : i - 8 < 8 := by omega
    simp [h, hi', this]

/-- A datagram is its two fields. -/
theorem dgram_fields (w : Datagram) : dgramPayload w ++ dgramCheck w = w := by
  apply BitVec.eq_of_getLsbD_eq
  intro i hi
  rw [BitVec.getLsbD_append, dgramPayload, dgramCheck, BitVec.getLsbD_extractLsb', BitVec.getLsbD_extractLsb']
  by_cases h : i < 8
  · simp [h]
  · have : 8 + (i - 8) = i := by omega
    have hi' : i - 8 < 16 := by omega
    simp [h, hi', this]

/-- Decoding a request that carries a code and an operand byte. -/
theorem decode_hreqWord (op arg : Byte) : decode (hreqWord op arg) = decodeCode op arg := by
  show decodeHreq (op ++ arg) = _
  rw [decodeHreq, hreqOp_append, hreqArg_append]

theorem decodeCode_measT (arg : Byte) : decodeCode codeMeasT arg = .measT arg := rfl
theorem decodeCode_measRh (arg : Byte) : decodeCode codeMeasRh arg = .measRh arg := rfl
theorem decodeCode_writeReg (arg : Byte) : decodeCode codeWriteReg arg = .setres arg := rfl
theorem decodeCode_readReg (arg : Byte) : decodeCode codeReadReg arg = .rdreg arg := rfl
theorem decodeCode_measTNh (arg : Byte) : decodeCode codeMeasTNh arg = .measTNh arg := rfl
theorem decodeCode_measRhNh (arg : Byte) : decodeCode codeMeasRhNh arg = .measRhNh arg := rfl
theorem decodeCode_softRst (arg : Byte) : decodeCode codeSoftRst arg = .softrst arg := rfl

/-- A code outside the seven is illegal (R96). -/
theorem decodeCode_illegal {op : Byte} (h : definedCodes.contains op = false) (arg : Byte) :
    decodeCode op arg = .illegal op arg := by
  simp [definedCodes] at h
  simp [decodeCode, codeMeasT, codeMeasRh, codeWriteReg, codeReadReg, codeMeasTNh, codeMeasRhNh, codeSoftRst, h]

/-- Everything a code can decode to: which operation, and which code it was. -/
theorem decodeCode_cases (op arg : Byte) :
    (op = 0xE3#8 ∧ decodeCode op arg = .measT arg) ∨ (op = 0xE5#8 ∧ decodeCode op arg = .measRh arg) ∨
    (op = 0xE6#8 ∧ decodeCode op arg = .setres arg) ∨ (op = 0xE7#8 ∧ decodeCode op arg = .rdreg arg) ∨
    (op = 0xF3#8 ∧ decodeCode op arg = .measTNh arg) ∨ (op = 0xF5#8 ∧ decodeCode op arg = .measRhNh arg) ∨
    (op = 0xFE#8 ∧ decodeCode op arg = .softrst arg) ∨
    (definedCodes.contains op = false ∧ decodeCode op arg = .illegal op arg) := by
  by_cases h : definedCodes.contains op
  · have := h
    simp [definedCodes] at this
    rcases this with rfl | rfl | rfl | rfl | rfl | rfl | rfl <;> simp [decodeCode, codeMeasT, codeMeasRh, codeWriteReg,
      codeReadReg, codeMeasTNh, codeMeasRhNh, codeSoftRst]
  · have h' : definedCodes.contains op = false := by simpa using h
    exact .inr (.inr (.inr (.inr (.inr (.inr (.inr ⟨h', decodeCode_illegal h' arg⟩))))))

/-- The operation of a host request is the one its two bytes name (R81). -/
theorem decodeHreq_eq (w : BitVec 16) : decodeHreq w = decodeCode (hreqOp w) (hreqArg w) := rfl

end Sys2Proof
end

