-- ==== Sys2Proof/Laws/Ops.lean ====
section
/-!
SUPPORT. What each shared operation can do, said once: its answer under the fairness premise, and the inversion of an
answer "next".
-/

namespace Sys2Proof.Machine

/-! ## Sequencing -/

theorem andThen_eq_next {α β : Type} {o : Result α} {f : α → Result β} {b : β} (h : andThen o f = .next b) :
    ∃ a, o = .next a ∧ f a = .next b := by
  cases o with
  | next a => exact ⟨a, rfl, h⟩
  | fault r => cases h
  | refused r => cases h

theorem andThen_eq_fault {α β : Type} {o : Result α} {f : α → Result β} {r : Fault} (h : andThen o f = .fault r) :
    o = .fault r ∨ ∃ a, o = .next a ∧ f a = .fault r := by
  cases o with
  | next a => exact .inr ⟨a, rfl, h⟩
  | fault q => exact .inl (by cases h; rfl)
  | refused q => cases h

theorem andThen_eq_refused {α β : Type} {o : Result α} {f : α → Result β} {r : Refusal}
    (h : andThen o f = .refused r) : o = .refused r ∨ ∃ a, o = .next a ∧ f a = .refused r := by
  cases o with
  | next a => exact .inr ⟨a, rfl, h⟩
  | fault q => cases h
  | refused q => exact .inl (by cases h; rfl)

@[simp] theorem andThen_next {α β : Type} (a : α) (f : α → Result β) : andThen (.next a) f = f a := rfl
@[simp] theorem andThen_fault {α β : Type} (r : Fault) (f : α → Result β) :
    andThen (.fault r : Result α) f = .fault r := rfl
@[simp] theorem andThen_refused {α β : Type} (r : Refusal) (f : α → Result β) :
    andThen (.refused r : Result α) f = .refused r := rfl

/-! ## Registers that hold a value -/

theorem readOp_of_some {s : State} {o : Byte} (h : s.op = some o) : s.readOp = o := by simp [State.readOp, h]
theorem readArg_of_some {s : State} {a : Byte} (h : s.arg = some a) : s.readArg = a := by simp [State.readArg, h]
theorem readAtt_of_some {s : State} {k : Nat} (h : s.att = some k) : s.readAtt = k := by simp [State.readAtt, h]
theorem readB0_of_some {s : State} {b : Byte} (h : s.b0 = some b) : s.readB0 = b := by simp [State.readB0, h]
theorem readB1_of_some {s : State} {b : Byte} (h : s.b1 = some b) : s.readB1 = b := by simp [State.readB1, h]
theorem readB2_of_some {s : State} {b : Byte} (h : s.b2 = some b) : s.readB2 = b := by simp [State.readB2, h]
theorem readRaw_of_some {s : State} {r : Reading} (h : s.raw = some r) : s.readRaw = r := by simp [State.readRaw, h]
theorem readMerged_of_some {s : State} {b : Byte} (h : s.merged = some b) : s.readMerged = b := by
  simp [State.readMerged, h]

/-! ## Capability calls -/

theorem awaitReturn_fair {s : State} (h : Fair s) : awaitReturn s = .next s := by simp [awaitReturn, h]

/-- A call that returns changes nothing but the number of calls left. -/
theorem awaitReturn_next {s t : State} (h : awaitReturn s = .next t) :
    ∃ r, t = { s with returnsLeft := r } ∧ (Fair s → r = none) := by
  unfold awaitReturn at h
  split at h
  · next hr => cases h; exact ⟨none, by rw [← hr], fun _ => rfl⟩
  · cases h
  · next k hr => cases h; exact ⟨some k, rfl, fun hf => by simp [Fair, hr] at hf⟩

/-- A call stops the machine only by not returning, and only where the fairness premise fails. -/
theorem awaitReturn_fault {s : State} {r : Fault} (h : awaitReturn s = .fault r) :
    r = .capabilityNeverReturns ∧ s.returnsLeft = some 0 := by
  unfold awaitReturn at h
  split at h
  · cases h
  · next hr => cases h; exact ⟨rfl, hr⟩
  · cases h

theorem awaitReturn_not_refused {s : State} {r : Refusal} : awaitReturn s ≠ .refused r := by
  unfold awaitReturn
  split <;> simp

/-- The environment answers from the list while it lasts, then freely (R77). -/
theorem takeAvail_cases (s : State) :
    (∃ n ns, s.avails = n :: ns ∧ s.takeAvail = (n, { s with avails := ns })) ∨
      (s.avails = [] ∧ s.takeAvail = (Config.drawAvail s.draws, { s with draws := s.draws + 1 })) := by
  unfold State.takeAvail
  split
  · next n ns h => exact .inl ⟨n, ns, h, rfl⟩
  · next h => exact .inr ⟨h, rfl⟩

/-- The environment's bytes come from the list while it lasts, then freely (R77). -/
theorem takeByte_cases (s : State) :
    (∃ b bs, s.bytes = b :: bs ∧ s.takeByte = (b, { s with bytes := bs })) ∨
      (s.bytes = [] ∧ s.takeByte = (Config.drawByte s.draws, { s with draws := s.draws + 1 })) := by
  unfold State.takeByte
  split
  · next b bs h => exact .inl ⟨b, bs, h, rfl⟩
  · next h => exact .inr ⟨h, rfl⟩

theorem takeAvail_cons {s : State} {n : Nat} {ns : List Nat} (h : s.avails = n :: ns) :
    s.takeAvail = (n, { s with avails := ns }) := by simp [State.takeAvail, h]

theorem takeByte_cons {s : State} {b : Byte} {bs : List Byte} (h : s.bytes = b :: bs) :
    s.takeByte = (b, { s with bytes := bs }) := by simp [State.takeByte, h]

theorem takeThree_cons {s : State} {b0 b1 b2 : Byte} {bs : List Byte} (h : s.bytes = b0 :: b1 :: b2 :: bs) :
    s.takeThree = ((b0, b1, b2), { s with bytes := bs }) := by simp [State.takeThree, State.takeByte, h]

/-- An availability answer changes the environment's own fields only. -/
theorem takeAvail_eq (s : State) :
    s.takeAvail.2 = { s with avails := s.takeAvail.2.avails, draws := s.takeAvail.2.draws } := by
  rcases takeAvail_cases s with ⟨n, ns, h, e⟩ | ⟨h, e⟩ <;> simp [e]

/-- A fetched byte changes the environment's own fields only. -/
theorem takeByte_eq (s : State) :
    s.takeByte.2 = { s with bytes := s.takeByte.2.bytes, draws := s.takeByte.2.draws } := by
  rcases takeByte_cases s with ⟨b, bs, h, e⟩ | ⟨h, e⟩ <;> simp [e]

/-- The environment's counter never goes back. -/
theorem takeAvail_draws_le (s : State) : s.draws ≤ s.takeAvail.2.draws := by
  rcases takeAvail_cases s with ⟨n, ns, h, e⟩ | ⟨h, e⟩ <;> simp [e]

theorem takeByte_draws_le (s : State) : s.draws ≤ s.takeByte.2.draws := by
  rcases takeByte_cases s with ⟨n, ns, h, e⟩ | ⟨h, e⟩ <;> simp [e]

theorem takeThree_draws_le (s : State) : s.draws ≤ s.takeThree.2.draws :=
  (takeByte_draws_le s).trans ((takeByte_draws_le _).trans (takeByte_draws_le _))

theorem busWrite_fair {s : State} (h : Fair s) (a : DeviceAddress) (bs : List Byte) :
    busWrite a bs s = .next (s.record (.write a bs)) := by simp [busWrite, awaitReturn_fair h]

theorem busRequest_fair {s : State} (h : Fair s) (a : DeviceAddress) (n : Nat) :
    busRequest a n s = .next (s.record (.request a n)) := by simp [busRequest, awaitReturn_fair h]

theorem busAvail_fair {s : State} (h : Fair s) :
    busAvail s = .next (s.takeAvail.1, s.takeAvail.2.record (.avail s.takeAvail.1)) := by
  simp [busAvail, awaitReturn_fair h]

theorem busFetch1_fair {s : State} (h : Fair s) :
    busFetch1 s = .next (s.takeByte.1, s.takeByte.2.record (.fetch [s.takeByte.1])) := by
  simp [busFetch1, awaitReturn_fair h]

theorem busFetch3_fair {s : State} (h : Fair s) :
    busFetch3 s = .next (s.takeThree.1,
      s.takeThree.2.record (.fetch [s.takeThree.1.1, s.takeThree.1.2.1, s.takeThree.1.2.2])) := by
  simp [busFetch3, awaitReturn_fair h]

theorem sleep_fair {s : State} (h : Fair s) (ms : Nat) : sleep ms s = .next (s.record (.sleep ms)) := by
  simp [sleep, awaitReturn_fair h]

/-- A write that returns records its event and, but for the calls left, changes nothing else. -/
theorem busWrite_next {s t : State} {a : DeviceAddress} {bs : List Byte} (h : busWrite a bs s = .next t) :
    ∃ r, t = { s with returnsLeft := r, trace := s.trace ++ [.write a bs] } ∧ (Fair s → r = none) := by
  obtain ⟨s', h', ht⟩ := andThen_eq_next h
  obtain ⟨r, rfl, hr⟩ := awaitReturn_next h'
  cases ht
  exact ⟨r, rfl, hr⟩

theorem busRequest_next {s t : State} {a : DeviceAddress} {n : Nat} (h : busRequest a n s = .next t) :
    ∃ r, t = { s with returnsLeft := r, trace := s.trace ++ [.request a n] } ∧ (Fair s → r = none) := by
  obtain ⟨s', h', ht⟩ := andThen_eq_next h
  obtain ⟨r, rfl, hr⟩ := awaitReturn_next h'
  cases ht
  exact ⟨r, rfl, hr⟩

theorem sleep_next {s t : State} {ms : Nat} (h : sleep ms s = .next t) :
    ∃ r, t = { s with returnsLeft := r, trace := s.trace ++ [.sleep ms] } ∧ (Fair s → r = none) := by
  obtain ⟨s', h', ht⟩ := andThen_eq_next h
  obtain ⟨r, rfl, hr⟩ := awaitReturn_next h'
  cases ht
  exact ⟨r, rfl, hr⟩

/-- An availability check that returns: the count, its event, and the environment's answer used up. -/
theorem busAvail_next {s t : State} {n : Nat} (h : busAvail s = .next (n, t)) :
    ∃ r ns d, t = { s with avails := ns, draws := d, returnsLeft := r, trace := s.trace ++ [.avail n] } ∧
      (Fair s → r = none) ∧ n = s.takeAvail.1 ∧ ns = s.takeAvail.2.avails ∧ d = s.takeAvail.2.draws := by
  obtain ⟨s', h', ht⟩ := andThen_eq_next h
  obtain ⟨r, rfl, hr⟩ := awaitReturn_next h'
  cases ht
  refine ⟨r, s.takeAvail.2.avails, s.takeAvail.2.draws, ?_, hr, ?_, rfl, rfl⟩ <;>
    rcases takeAvail_cases s with ⟨m, ms, hm, e⟩ | ⟨hm, e⟩ <;> simp [State.takeAvail, State.record, hm]

/-- A one-byte fetch that returns: the byte, its event, and the environment's answer used up. -/
theorem busFetch1_next {s t : State} {b : Byte} (h : busFetch1 s = .next (b, t)) :
    ∃ r bs d, t = { s with bytes := bs, draws := d, returnsLeft := r, trace := s.trace ++ [.fetch [b]] } ∧
      (Fair s → r = none) ∧ b = s.takeByte.1 ∧ bs = s.takeByte.2.bytes ∧ d = s.takeByte.2.draws := by
  obtain ⟨s', h', ht⟩ := andThen_eq_next h
  obtain ⟨r, rfl, hr⟩ := awaitReturn_next h'
  cases ht
  refine ⟨r, s.takeByte.2.bytes, s.takeByte.2.draws, ?_, hr, ?_, rfl, rfl⟩ <;>
    rcases takeByte_cases s with ⟨m, ms, hm, e⟩ | ⟨hm, e⟩ <;> simp [State.takeByte, State.record, hm]

theorem takeThree_eq (s : State) :
    s.takeThree.2 = { s with bytes := s.takeThree.2.bytes, draws := s.takeThree.2.draws } := by
  simp only [State.takeThree]
  rw [takeByte_eq s.takeByte.2.takeByte.2, takeByte_eq s.takeByte.2, takeByte_eq s]

theorem takeThree_calls (s : State) (r : Option Nat) :
    ({ s with returnsLeft := r } : State).takeThree = (s.takeThree.1, { s.takeThree.2 with returnsLeft := r }) := by
  have one : ∀ u : State, ({ u with returnsLeft := r } : State).takeByte =
      (u.takeByte.1, { u.takeByte.2 with returnsLeft := r }) := by
    intro u
    rcases takeByte_cases u with ⟨b, bs, hb, e⟩ | ⟨hb, e⟩ <;> simp [State.takeByte, hb]
  simp only [State.takeThree, one]

/-- A three-byte fetch that returns: the bytes, its event, and the environment's answers used up. -/
theorem busFetch3_next {s t : State} {b0 b1 b2 : Byte} (h : busFetch3 s = .next ((b0, b1, b2), t)) :
    ∃ r bs d, t = { s with bytes := bs, draws := d, returnsLeft := r, trace := s.trace ++ [.fetch [b0, b1, b2]] } ∧
      (Fair s → r = none) ∧ (b0, b1, b2) = s.takeThree.1 ∧ bs = s.takeThree.2.bytes ∧
      d = s.takeThree.2.draws := by
  obtain ⟨s', h', ht⟩ := andThen_eq_next h
  obtain ⟨r, rfl, hr⟩ := awaitReturn_next h'
  rw [takeThree_calls] at ht
  simp only [Host.Outcome.next.injEq, Prod.mk.injEq] at ht
  obtain ⟨hb, rfl⟩ := ht
  refine ⟨r, s.takeThree.2.bytes, s.takeThree.2.draws, ?_, hr, hb.symm, rfl, rfl⟩
  rw [takeThree_eq s, hb]
  rfl

/-! ## Beginning and ending an operation -/

theorem accept_eq (first : Phase) (o a : Byte) (s : State) :
    accept first o a s = .next ((s.latch o a).goto first) := rfl

theorem refuse_eq (o a : Byte) (s : State) :
    refuse o a s = .next { s.latch o a with outcome := some .refused, phase := .idle } := rfl

/-- Counting a failed poll either goes on polling, within the budget, or ends the operation with `Timeout`. -/
theorem countFailedPoll_cases (s : State) :
    (s.readAtt + 1 < s.cfg.nPoll ∧ countFailedPoll s = { s with att := some (s.readAtt + 1), phase := .mPoll }) ∨
      (s.cfg.nPoll ≤ s.readAtt + 1 ∧
        countFailedPoll s =
          { s with att := some (s.readAtt + 1), outcome := some .timeout, result := none, phase := .idle }) := by
  unfold countFailedPoll
  by_cases h : s.readAtt + 1 < s.cfg.nPoll
  · exact .inl ⟨h, by simp [h, State.goto]⟩
  · exact .inr ⟨by omega, by simp [h, State.raise]⟩

end Sys2Proof.Machine
end

