-- ==== Sys2Proof/Laws/PerInstr.lean ====
section
/-!
SUPPORT. Statements about every operation as syntax, one lemma per constructor.
-/

namespace Sys2Proof.Laws.DecodeEncode

/-- A well-formed operation is read back from its own word. -/
def Statement (i : Instr) : Prop := i.wellFormed = true → decode (encode i) = i

theorem measT (arg : Byte) : Statement (.measT arg) := fun _ => decode_hreqWord _ arg
theorem measRh (arg : Byte) : Statement (.measRh arg) := fun _ => decode_hreqWord _ arg
theorem setres (arg : Byte) : Statement (.setres arg) := fun _ => decode_hreqWord _ arg
theorem rdreg (arg : Byte) : Statement (.rdreg arg) := fun _ => decode_hreqWord _ arg
theorem measTNh (arg : Byte) : Statement (.measTNh arg) := fun _ => decode_hreqWord _ arg
theorem measRhNh (arg : Byte) : Statement (.measRhNh arg) := fun _ => decode_hreqWord _ arg
theorem softrst (arg : Byte) : Statement (.softrst arg) := fun _ => decode_hreqWord _ arg

theorem illegal (op arg : Byte) : Statement (.illegal op arg) := by
  intro h
  rw [encode, decode_hreqWord, decodeCode_illegal (by simpa [Instr.wellFormed] using h)]

theorem crcValidate (payload : Reading) (check : Byte) : Statement (.crcValidate payload check) := by
  intro _
  show decodeDgram (payload ++ check) = _
  rw [decodeDgram, dgramPayload_append, dgramCheck_append]

end Sys2Proof.Laws.DecodeEncode
end

