-- ==== Sys2Proof/Laws/Step.lean ====
section
/-!
SUPPORT. What fetching and each step of SEQ can do, said once.
-/

namespace Sys2Proof.Machine

/-! ## Fetching -/

theorem busy_iff {s : State} : s.busy = true ↔ s.phase ≠ .idle := by simp [State.busy]

theorem step_idle_nil {s : State} (h : s.phase = .idle) (hr : s.requests = []) : step s = .next s := by
  simp [step, fetchOperation, State.busy, h, hr]

theorem step_idle_cons {s : State} {r : Request} {rs : List Request} (h : s.phase = .idle)
    (hr : s.requests = r :: rs) : step s = exec (decode r) { s with requests := rs } := by
  simp [step, fetchOperation, State.busy, h, hr]

theorem step_busy {s : State} (h : s.phase ≠ .idle) : step s = exec s.current s := by
  simp [step, fetchOperation, State.busy, h]

theorem current_of_some {s : State} {o a : Byte} (ho : s.op = some o) (ha : s.arg = some a) :
    s.current = decodeCode o a := by simp [State.current, readOp_of_some ho, readArg_of_some ha]

/-- A step waits, accepts the host's next request, or belongs to the operation in progress. -/
theorem step_cases (s : State) :
    (s.phase = .idle ∧ s.requests = [] ∧ step s = .next s) ∨
    (∃ r rs, s.phase = .idle ∧ s.requests = r :: rs ∧ step s = exec (decode r) { s with requests := rs }) ∨
    (s.phase ≠ .idle ∧ step s = exec s.current s) := by
  by_cases h : s.phase = .idle
  · cases hr : s.requests with
    | nil => exact .inl ⟨h, rfl, step_idle_nil h hr⟩
    | cons r rs => exact .inr (.inl ⟨r, rs, h, rfl, step_idle_cons h hr⟩)
  · exact .inr (.inr ⟨h, step_busy h⟩)

/-- A word placed by `withFetchWord` is the one the very next step runs. -/
theorem step_presented {s : State} {nbits w : Nat} {r : Request} (h : portWord nbits w = .ok r) :
    step (s.withFetchWord nbits w) = exec (decode r) { s with phase := .idle } := by
  have e : s.withFetchWord nbits w = { s with requests := r :: s.requests, phase := .idle } := by
    simp [State.withFetchWord, State.presentWord, h]
  rw [e]
  exact step_idle_cons rfl rfl

theorem portWord_hreq {w : Nat} (h : w < 2 ^ 16) : portWord 16 w = .ok (.hreq (BitVec.ofNat 16 w)) := by
  simp only [portWord, if_pos, if_pos h]

theorem portWord_dgram {w : Nat} (h : w < 2 ^ 24) : portWord 24 w = .ok (.dgram (BitVec.ofNat 24 w)) := by
  have : (24 : Nat) ≠ 16 := by decide
  simp only [portWord, if_neg this, if_pos, if_pos h]

/-! ## The operation in progress -/

/-- While an operation runs a measurement's meaning does not depend on the operation's code or operand. -/
theorem measurement_busy {s : State} (h : s.phase ≠ .idle) (c a c' a' : Byte) :
    measurement c a s = measurement c' a' s := by
  unfold measurement
  split <;> first | rfl | exact absurd ‹_› h

/-- A step that goes on while an operation runs is a step of a measurement, of `RDREG` or of `SETRES`, by the code in
`OP`. -/
theorem step_busy_next {s t : State} (h : s.phase ≠ .idle) (ht : step s = .next t) :
    ((s.readOp = 0xE3#8 ∨ s.readOp = 0xE5#8) ∧ measurement s.readOp s.readArg s = .next t) ∨
    (s.readOp = 0xE7#8 ∧ execRdreg s.readArg s = .next t) ∨
    (s.readOp = 0xE6#8 ∧ execSetres s.readArg s = .next t) := by
  rw [step_busy h, State.current] at ht
  have hb : s.busy = true := busy_iff.mpr h
  rcases decodeCode_cases s.readOp s.readArg with
    ⟨ho, e⟩ | ⟨ho, e⟩ | ⟨ho, e⟩ | ⟨ho, e⟩ | ⟨ho, e⟩ | ⟨ho, e⟩ | ⟨ho, e⟩ | ⟨ho, e⟩ <;> rw [e] at ht
  · exact .inl ⟨.inl ho, by rw [measurement_busy h _ _ codeMeasT s.readArg]; exact ht⟩
  · exact .inl ⟨.inr ho, by rw [measurement_busy h _ _ codeMeasRh s.readArg]; exact ht⟩
  · exact .inr (.inr ⟨ho, ht⟩)
  · exact .inr (.inl ⟨ho, ht⟩)
  all_goals simp [exec, execMeasTNh, execMeasRhNh, execSoftrst, execIllegal, presentUnexecuted, hb] at ht

/-- Which step of a measurement a phase takes. -/
theorem measurement_cases {s t : State} {c a : Byte} (h : s.phase ≠ .idle) (ht : measurement c a s = .next t) :
    (s.phase = .mCmd ∧ stepMCmd s = .next t) ∨ (s.phase = .mSettle ∧ stepMSettle s = .next t) ∨
    (s.phase = .mReq ∧ stepMReq s = .next t) ∨ (s.phase = .mPoll ∧ stepMPoll s = .next t) ∨
    (s.phase = .mFetch ∧ stepMFetch s = .next t) ∨ (s.phase = .mAsm ∧ stepMAsm s = .next t) ∨
    (s.phase = .mCheck ∧ stepMCheck s = .next t) ∨ (s.phase = .mMask ∧ stepMMask s = .next t) := by
  unfold measurement at ht
  split at ht <;> simp_all

/-- Which step of `RDREG` a phase takes. -/
theorem execRdreg_cases {s t : State} {a : Byte} (h : s.phase ≠ .idle) (ht : execRdreg a s = .next t) :
    (s.phase = .rCmd ∧ stepRCmd s = .next t) ∨ (s.phase = .rReq ∧ stepRReq s = .next t) ∨
    (s.phase = .rFetch ∧ stepRFetchRead s = .next t) := by
  unfold execRdreg at ht
  split at ht <;> simp_all

/-- Which step of `SETRES` a phase takes. -/
theorem execSetres_cases {s t : State} {a : Byte} (h : s.phase ≠ .idle) (ht : execSetres a s = .next t) :
    (s.phase = .rCmd ∧ stepRCmd s = .next t) ∨ (s.phase = .rReq ∧ stepRReq s = .next t) ∨
    (s.phase = .rFetch ∧ stepRFetchMerge s = .next t) ∨ (s.phase = .sWrite ∧ stepSWrite s = .next t) := by
  unfold execSetres at ht
  split at ht <;> simp_all

/-! ## The meanings in `IDLE` -/

theorem measurement_idle {s : State} (h : s.phase = .idle) (c a : Byte) :
    measurement c a s = .next ((s.latch c a).goto .mCmd) := by simp [measurement, h, accept]

theorem execSetres_idle {s : State} (h : s.phase = .idle) (a : Byte) :
    execSetres a s = .next ((s.latch codeWriteReg a).goto .rCmd) := by simp [execSetres, h, accept]

theorem execRdreg_idle {s : State} (h : s.phase = .idle) (a : Byte) :
    execRdreg a s = .next ((s.latch codeReadReg a).goto .rCmd) := by simp [execRdreg, h, accept]

theorem presentUnexecuted_idle {s : State} (h : s.phase = .idle) (o a : Byte) :
    presentUnexecuted o a s = .next { s.latch o a with outcome := some .refused, phase := .idle } := by
  simp [presentUnexecuted, State.busy, h, refuse]

theorem execCrcValidate_idle {s : State} (h : s.phase = .idle) (p : Reading) (c : Byte) :
    execCrcValidate p c s = .next (s.runCrcv p c) := by simp [execCrcValidate, State.busy, h]

/-- What any operation does in `IDLE`: it is accepted into a measurement, into a control-register operation, or refused,
or CRCV runs. -/
theorem exec_idle_next {s t : State} {i : Instr} (h : s.phase = .idle) (ht : exec i s = .next t) :
    (∃ o a, (o = 0xE3#8 ∨ o = 0xE5#8) ∧ t = (s.latch o a).goto .mCmd) ∨
    (∃ o a, (o = 0xE6#8 ∨ o = 0xE7#8) ∧ t = (s.latch o a).goto .rCmd) ∨
    (∃ o a, t = { s.latch o a with outcome := some .refused, phase := .idle }) ∨
    (∃ p c, t = s.runCrcv p c) := by
  cases i with
  | measT a =>
    cases (measurement_idle h codeMeasT a).symm.trans ht
    exact .inl ⟨_, a, .inl rfl, rfl⟩
  | measRh a =>
    cases (measurement_idle h codeMeasRh a).symm.trans ht
    exact .inl ⟨_, a, .inr rfl, rfl⟩
  | setres a =>
    cases (execSetres_idle h a).symm.trans ht
    exact .inr (.inl ⟨_, a, .inl rfl, rfl⟩)
  | rdreg a =>
    cases (execRdreg_idle h a).symm.trans ht
    exact .inr (.inl ⟨_, a, .inr rfl, rfl⟩)
  | measTNh a =>
    cases (presentUnexecuted_idle h codeMeasTNh a).symm.trans ht
    exact .inr (.inr (.inl ⟨_, a, rfl⟩))
  | measRhNh a =>
    cases (presentUnexecuted_idle h codeMeasRhNh a).symm.trans ht
    exact .inr (.inr (.inl ⟨_, a, rfl⟩))
  | softrst a =>
    cases (presentUnexecuted_idle h codeSoftRst a).symm.trans ht
    exact .inr (.inr (.inl ⟨_, a, rfl⟩))
  | illegal o a =>
    cases (presentUnexecuted_idle h o a).symm.trans ht
    exact .inr (.inr (.inl ⟨_, a, rfl⟩))
  | crcValidate p c =>
    cases (execCrcValidate_idle h p c).symm.trans ht
    exact .inr (.inr (.inr ⟨p, c, rfl⟩))

/-- What a step does in `IDLE`: it waits, or it takes the host's next request and accepts it, refuses it, or runs
CRCV. -/
theorem step_idle_next {s t : State} (h : s.phase = .idle) (ht : step s = .next t) :
    (s.requests = [] ∧ t = s) ∨
    ∃ r rs, s.requests = r :: rs ∧
      ((∃ o a, (o = 0xE3#8 ∨ o = 0xE5#8) ∧ t = (({ s with requests := rs } : State).latch o a).goto .mCmd) ∨
       (∃ o a, (o = 0xE6#8 ∨ o = 0xE7#8) ∧ t = (({ s with requests := rs } : State).latch o a).goto .rCmd) ∨
       (∃ o a, t = { ({ s with requests := rs } : State).latch o a with outcome := some .refused, phase := .idle }) ∨
       (∃ p c, t = ({ s with requests := rs } : State).runCrcv p c)) := by
  rcases step_cases s with ⟨_, hr, e⟩ | ⟨r, rs, _, hr, e⟩ | ⟨hb, _⟩
  · rw [e] at ht
    cases ht
    exact .inl ⟨hr, rfl⟩
  · rw [e] at ht
    exact .inr ⟨r, rs, hr, exec_idle_next h ht⟩
  · exact absurd h hb

/-! ## The steps of SEQ: what a next state looks like -/

theorem stepMCmd_next {s t : State} (h : stepMCmd s = .next t) :
    ∃ r, (Fair s → r = none) ∧
      t = { s with phase := .mSettle, returnsLeft := r, trace := s.trace ++ [.write Config.devAddr [s.readOp]] } := by
  obtain ⟨u, hu, ht⟩ := andThen_eq_next h
  obtain ⟨r, rfl, hr⟩ := busWrite_next hu
  cases ht
  exact ⟨r, hr, rfl⟩

theorem stepMSettle_next {s t : State} (h : stepMSettle s = .next t) :
    ∃ r, (Fair s → r = none) ∧
      t = { s with phase := .mReq, returnsLeft := r, trace := s.trace ++ [.sleep s.cfg.tSettleMs] } := by
  obtain ⟨u, hu, ht⟩ := andThen_eq_next h
  obtain ⟨r, rfl, hr⟩ := sleep_next hu
  cases ht
  exact ⟨r, hr, rfl⟩

theorem stepMReq_next {s t : State} (h : stepMReq s = .next t) :
    ∃ r, (Fair s → r = none) ∧
      t = { s with
        phase := .mPoll, att := some 0, returnsLeft := r, trace := s.trace ++ [.request Config.devAddr 3] } := by
  obtain ⟨u, hu, ht⟩ := andThen_eq_next h
  obtain ⟨r, rfl, hr⟩ := busRequest_next hu
  cases ht
  exact ⟨r, hr, rfl⟩

/-- A poll attempt succeeds, fails within the budget, or fails as the last one (R135 to R137). -/
theorem stepMPoll_next {s t : State} (h : stepMPoll s = .next t) :
    ∃ n ns d r, (Fair s → r = none) ∧ n = s.takeAvail.1 ∧ ns = s.takeAvail.2.avails ∧ d = s.takeAvail.2.draws ∧
      ((3 ≤ n ∧
          t = { s with
            phase := .mFetch, avails := ns, draws := d, returnsLeft := r, trace := s.trace ++ [.avail n] }) ∨
        (n < 3 ∧
          ∃ u, t = countFailedPoll u ∧
            u = { s with
              avails := ns, draws := d, returnsLeft := r,
              trace := s.trace ++ [.avail n, .sleep s.cfg.tPollMs] })) := by
  obtain ⟨⟨n, u⟩, hu, ht⟩ := andThen_eq_next h
  obtain ⟨r, ns, d, rfl, hr, hn, hns, hd⟩ := busAvail_next hu
  by_cases hle : Config.nResp ≤ n
  · rw [if_pos hle] at ht
    cases ht
    exact ⟨n, ns, d, r, hr, hn, hns, hd, .inl ⟨hle, rfl⟩⟩
  · rw [if_neg hle] at ht
    obtain ⟨v, hv, ht⟩ := andThen_eq_next ht
    obtain ⟨r', rfl, hr'⟩ := sleep_next hv
    cases ht
    refine ⟨n, ns, d, r', fun hf => hr' (hr hf), hn, hns, hd, .inr ⟨?_, _, rfl, ?_⟩⟩
    · simp only [Config.nResp] at hle; omega
    · simp

theorem stepMFetch_next {s t : State} (h : stepMFetch s = .next t) :
    ∃ b0 b1 b2 bs d r, (Fair s → r = none) ∧ (b0, b1, b2) = s.takeThree.1 ∧ bs = s.takeThree.2.bytes ∧
      d = s.takeThree.2.draws ∧
      t = { s with
        phase := .mAsm, b0 := some b0, b1 := some b1, b2 := some b2, bytes := bs, draws := d, returnsLeft := r,
        trace := s.trace ++ [.fetch [b0, b1, b2]] } := by
  obtain ⟨⟨⟨b0, b1, b2⟩, u⟩, hu, ht⟩ := andThen_eq_next h
  obtain ⟨r, bs, d, rfl, hr, hb, hbs, hd⟩ := busFetch3_next hu
  cases ht
  exact ⟨b0, b1, b2, bs, d, r, hr, hb, hbs, hd, rfl⟩

theorem stepMAsm_eq (s : State) :
    stepMAsm s = .next { s with phase := .mCheck, raw := some (assembleRaw s.readB0 s.readB1) } := rfl

/-- The check goes on to the masking step or ends the operation with `ChecksumFailure` (R140, R141). -/
theorem stepMCheck_cases (s : State) :
    (validate s.readRaw s.readB2 = true ∧ stepMCheck s = .next ((s.runCrcv s.readRaw s.readB2).goto .mMask)) ∨
      (validate s.readRaw s.readB2 = false ∧
        stepMCheck s = .next ((s.runCrcv s.readRaw s.readB2).raise .checksumFailure)) := by
  cases h : validate s.readRaw s.readB2 <;> simp [stepMCheck, h]

theorem stepMMask_eq (s : State) :
    stepMMask s =
      .next { s with result := some (corrected s.readRaw), outcome := some .ok, phase := .idle } := rfl

theorem stepRCmd_next {s t : State} (h : stepRCmd s = .next t) :
    ∃ r, (Fair s → r = none) ∧
      t = { s with phase := .rReq, returnsLeft := r, trace := s.trace ++ [.write Config.devAddr [codeReadReg]] } := by
  obtain ⟨u, hu, ht⟩ := andThen_eq_next h
  obtain ⟨r, rfl, hr⟩ := busWrite_next hu
  cases ht
  exact ⟨r, hr, rfl⟩

theorem stepRReq_next {s t : State} (h : stepRReq s = .next t) :
    ∃ r, (Fair s → r = none) ∧
      t = { s with phase := .rFetch, returnsLeft := r, trace := s.trace ++ [.request Config.devAddr 1] } := by
  obtain ⟨u, hu, ht⟩ := andThen_eq_next h
  obtain ⟨r, rfl, hr⟩ := busRequest_next hu
  cases ht
  exact ⟨r, hr, rfl⟩

theorem stepRFetchRead_next {s t : State} (h : stepRFetchRead s = .next t) :
    ∃ u bs d r, (Fair s → r = none) ∧ u = s.takeByte.1 ∧ bs = s.takeByte.2.bytes ∧ d = s.takeByte.2.draws ∧
      t = { s with
        phase := .idle, ureg := some u, result := some (zext16 u), outcome := some .ok, bytes := bs, draws := d,
        returnsLeft := r, trace := s.trace ++ [.fetch [u]] } := by
  obtain ⟨⟨u, v⟩, hu, ht⟩ := andThen_eq_next h
  obtain ⟨r, bs, d, rfl, hr, hb, hbs, hd⟩ := busFetch1_next hu
  cases ht
  exact ⟨u, bs, d, r, hr, hb, hbs, hd, rfl⟩

/-- The byte written back is the merge of the byte read with `ARG`, where `ARG` holds a value. -/
theorem stepRFetchMerge_next {s t : State} (h : stepRFetchMerge s = .next t) :
    ∃ u w bs d r, (Fair s → r = none) ∧ u = s.takeByte.1 ∧ bs = s.takeByte.2.bytes ∧ d = s.takeByte.2.draws ∧
      (∀ a, s.arg = some a → w = mergeField s.cfg.resMask u a) ∧
      t = { s with
        phase := .sWrite, ureg := some u, merged := some w, bytes := bs, draws := d,
        returnsLeft := r, trace := s.trace ++ [.fetch [u]] } := by
  obtain ⟨⟨u, v⟩, hu, ht⟩ := andThen_eq_next h
  obtain ⟨r, bs, d, rfl, hr, hb, hbs, hd⟩ := busFetch1_next hu
  cases ht
  exact ⟨u, _, bs, d, r, hr, hb, hbs, hd, fun a ha => by simp [State.readArg, ha], rfl⟩

theorem stepSWrite_next {s t : State} (h : stepSWrite s = .next t) :
    ∃ r, (Fair s → r = none) ∧
      t = { s with
        phase := .idle, result := none, outcome := some .ok, returnsLeft := r,
        trace := s.trace ++ [.write Config.devAddr [codeWriteReg, s.readMerged]] } := by
  obtain ⟨u, hu, ht⟩ := andThen_eq_next h
  obtain ⟨r, rfl, hr⟩ := busWrite_next hu
  cases ht
  exact ⟨r, hr, rfl⟩

end Sys2Proof.Machine
end

