-- ==== Sys2Proof/Tests/Slice0.lean ====
section
/-!
SUPPORT. Tests with expected results from spec/95_test_vectors.md and the worked examples of the rules, and for every
statement with hypotheses a concrete state and operands that meet them.
-/

namespace Sys2Proof.Tests

open Sys2Proof.Machine

/-! ## Well-formedness: each defined code is refused as an illegal one -/

theorem test_illegal_refuses_defined_codes :
    definedCodes.all (fun c => !(Instr.illegal c 0x00#8).wellFormed) = true := by decide

theorem test_illegal_accepts_neighbours :
    [0xE2#8, 0xE4#8, 0xE8#8, 0x40#8, 0x00#8, 0xFF#8].all (fun c => (Instr.illegal c 0x00#8).wellFormed) = true := by
  decide

/-! ## Decoding, each word written out from R81, R85, R86 -/

theorem test_decode_measT : decodeTableWord 16 0b1110001100000000 = some (.measT 0x00#8) := by decide
theorem test_decode_measRh : decodeTableWord 16 0b1110010111111111 = some (.measRh 0xFF#8) := by decide
theorem test_decode_setres : decodeTableWord 16 0b1110011010000000 = some (.setres 0x80#8) := by decide
theorem test_decode_rdreg : decodeTableWord 16 0b1110011110101011 = some (.rdreg 0xAB#8) := by decide
theorem test_decode_measTNh : decodeTableWord 16 0b1111001100000000 = some (.measTNh 0x00#8) := by decide
theorem test_decode_measRhNh : decodeTableWord 16 0b1111010100000000 = some (.measRhNh 0x00#8) := by decide
theorem test_decode_softrst : decodeTableWord 16 0b1111111000000000 = some (.softrst 0x00#8) := by decide
theorem test_decode_illegal : decodeTableWord 16 0b1110010011111111 = some (.illegal 0xE4#8 0xFF#8) := by decide
theorem test_decode_crcValidate :
    decodeTableWord 24 0b011000100011000001001001 = some (.crcValidate 0x6230#16 0x49#8) := by decide
theorem test_decode_no_port : decodeWord 18 0 = .error (.noPortOfWidth 18) := by decide
theorem test_decode_too_wide : decodeWord 16 65536 = .error (.tooWide 16 65536) := by decide

/-- No two rows of the opcode table cover the same word. -/
theorem test_opcode_rows_disjoint :
    opcodeRows.Pairwise (fun a b => a.pattern &&& (a.mask &&& b.mask) ≠ b.pattern &&& (a.mask &&& b.mask)) := by
  decide

/-- Each row's pattern decodes to the operation the row names. -/
theorem test_opcode_rows_named :
    opcodeRows.all (fun r => r.covers r.pattern && (decodeHreq r.pattern).mnemonic == r.mnemonic) = true := by decide

/-- R99. -/
theorem test_text :
    (Instr.setres 0x80#8).text = "SETRES 0x80" ∧
    (Instr.crcValidate 0x6230#16 0x49#8).text = "CRC.VALIDATE 0x6230, 0x49" := by decide

/-! ## CRCV: sections 2.1 to 2.4 of the test vectors -/

/-- The computed values the tests and witnesses below rest on, evaluated once: the trace of section 2.1 after iterations 2
and 12, the table of section 2.4, the two messages of sections 2.1 and 2.2, and the byte-serial form of section 2.7. -/
theorem test_crc_values :
    ((crcIterations 0x623049#24 3).rem = 0x085049#24 ∧ (crcIterations 0x623049#24 13).rem = 0x000131#24) ∧
    (crc8 0x6230#16 = 0x49#8 ∧ crc8 0x683A#16 = 0x7C#8 ∧ crc8 0xABCD#16 = 0xEE#8 ∧ crc8 0x3062#16 = 0x6B#8 ∧
      crc8 0x4E85#16 = 0x6B#8) ∧
    (validate 0x6230#16 0x49#8 = true ∧ validate 0x6230#16 0x48#8 = false ∧ validate 0x683A#16 0x7C#8 = true) ∧
    (remainderOf 0x623049#24 = 0#24 ∧ remainderOf 0x623048#24 = 0x000001#24) ∧
    (lfsrCrc8 0x6230#16 = 0x49#8 ∧ lfsrCrc8 0xFFFF#16 = 0x2D#8) := by decide +kernel

/-! ## Single steps -/

/-- A state in the middle of a measurement of humidity: the registers of program P1. -/
def measuring (p : Phase) : State :=
  { State.reset with
    phase := p, op := some 0xE5#8, arg := some 0x00#8, att := some 0, b0 := some 0x62#8, b1 := some 0x30#8,
    b2 := some 0x49#8, raw := some 0x6230#16, rem := some 0#24, div := some 0x98#24, idx := some 16,
    valid := some true }

/-- A state in the middle of a `SETRES`: the registers of program P4. -/
def updating (p : Phase) : State :=
  { State.reset with
    phase := p, op := some 0xE6#8, arg := some 0x80#8, ureg := some 0x3A#8, merged := some 0xB8#8 }

/-- A state in the middle of an `RDREG`. -/
def reading (p : Phase) : State := { State.reset with phase := p, op := some 0xE7#8, arg := some 0x00#8 }

/-- The next state of a step, if there is one. -/
def nextOf (s : State) : Option State :=
  match step s with
  | .next t => some t
  | .fault _ => none
  | .refused _ => none

/-- M2: the result is `0x6838`, status bits cleared after the check. -/
theorem test_measT_masks :
    (nextOf { measuring .mMask with op := some 0xE3#8, raw := some 0x683A#16 }).map (·.response) =
      some (some { outcome := .ok, value := some 0x6838#16 }) := by decide

/-- Vector M2's registers before its check. -/
def checkingM2 : State :=
  { measuring .mCheck with op := some 0xE3#8, raw := some 0x683A#16, b2 := some 0x7C#8 }

/-- M2: the unmasked reading is checked. -/
theorem test_measT_checks_unmasked : ∃ t, exec (.measT 0x00#8) checkingM2 = .next t ∧ t.phase = .mMask := by
  rcases stepMCheck_cases checkingM2 with ⟨_, e⟩ | ⟨h, _⟩
  · exact ⟨_, e, State.goto_phase _ _⟩
  · exact absurd (h.symm.trans test_crc_values.2.2.1.2.2) (by decide)

/-- M11: the first byte is the high byte. -/
theorem test_measRh_byte_order :
    (nextOf { measuring .mAsm with b0 := some 0x30#8, b1 := some 0x62#8 }).map (·.raw) = some (some 0x3062#16) := by
  decide

/-- M5: the hundredth failed check raises `Timeout`. -/
theorem test_measRh_times_out :
    (nextOf { measuring .mPoll with att := some 99, avails := [2] }).map (fun t => (t.response, t.att, t.trace)) =
      some (some { outcome := .timeout, value := none }, some 100, [.avail 2, .sleep 1]) := by decide

/-- G2v: zero extension. -/
theorem test_rdreg_zero_extends :
    (nextOf { reading .rFetch with bytes := [0xFF#8] }).map (·.response) =
      some (some { outcome := .ok, value := some 0x00FF#16 }) := by decide

/-- The command of the read half is 0xE7 (R161). -/
theorem test_rdreg_command : (nextOf (reading .rCmd)).map (·.trace) = some [.write 0x40#7 [0xE7#8]] := by decide

/-- Section 5, row 5: both field bits cleared, every other bit kept. -/
theorem test_setres_merges :
    (nextOf { updating .rFetch with arg := some 0x00#8, bytes := [0xBB#8] }).map (·.merged) = some (some 0x39#8) := by
  decide

/-- P4, step 4. -/
theorem test_setres_writes_back :
    (nextOf (updating .sWrite)).map (fun t => (t.trace, t.response)) =
      some ([.write 0x40#7 [0xE6#8, 0xB8#8]], some { outcome := .ok, value := none }) := by decide

/-- Section 6: each unexecuted code is refused, with no event. -/
theorem test_unexecuted_codes_refused :
    [0xF300, 0xF500, 0xFE00, 0x0000, 0xE400].all (fun w =>
      (nextOf (State.reset.withFetchWord 16 w)).map (fun t => (t.response, t.trace, t.phase)) ==
        some (some { outcome := .refused, value := none }, [], .idle)) = true := by decide

/-- P6, second line. -/
theorem test_crcValidate_rejects :
    ∃ t, exec (.crcValidate 0x6230#16 0x48#8) State.reset = .next t ∧ t.rem = some 0x000001#24 ∧ t.idx = some 16 ∧
      t.valid = some false := by
  refine ⟨_, execCrcValidate_idle rfl _ _, ?_, ?_, ?_⟩
  · have h : datagram 0x6230#16 0x48#8 = 0x623048#24 := by decide
    rw [State.runCrcv_rem, h, test_crc_values.2.2.2.1.2]
  · rw [State.runCrcv_idx, crcRun_idx]
  · rw [State.runCrcv_valid, test_crc_values.2.2.1.2.1]

/-- `HRSP` of M1 and G1v. -/
theorem test_response_word :
    (Response.mk .ok (some 0x6230#16)).word = some 0x06230#18 ∧ (Response.mk .ok (some 0x003A#16)).word = some 0x0003A#18 := by
  decide

/-- R190. -/
theorem test_converters :
    humidityFromRaw 0x6230#16 = 171799 / 4096 ∧ temperatureFromRaw 0x6230#16 = 2103963 / 102400 := by
  norm_num [humidityFromRaw, temperatureFromRaw, Rat.mkRat_eq_div]

/-! ## Witnesses: the invariant in each phase -/

theorem measuring_inv :
    ∀ p ∈ [Phase.mCmd, .mSettle, .mReq, .mPoll, .mFetch, .mAsm, .mCheck, .mMask], Inv (measuring p) := by
  have hv := test_crc_values.2.2.1.1
  intro p hp
  refine ⟨by simp [measuring, State.reset, Config.default], by simp [measuring], .inr ⟨0#24, by decide, rfl, rfl, rfl, rfl⟩, ?_, ?_⟩
  · simp only [List.mem_cons, List.not_mem_nil, or_false] at hp
    rcases hp with rfl | rfl | rfl | rfl | rfl | rfl | rfl | rfl <;> simp [ResponseHolds, measuring, State.reset]
  · simp only [List.mem_cons, List.not_mem_nil, or_false] at hp
    rcases hp with rfl | rfl | rfl | rfl | rfl | rfl | rfl | rfl <;>
      simp [PhaseHolds, MeasuringOp, HasBytes, HasRaw, HasValidated, assembleRaw, measuring, State.reset,
        Config.default, hv]

theorem updating_inv : ∀ p ∈ [Phase.rCmd, .rReq, .rFetch, .sWrite], Inv (updating p) := by
  intro p hp
  refine ⟨by simp [updating, State.reset, Config.default], by simp [updating, State.reset], .inl ⟨rfl, rfl, rfl, rfl⟩, ?_, ?_⟩
  · simp only [List.mem_cons, List.not_mem_nil, or_false] at hp
    rcases hp with rfl | rfl | rfl | rfl <;> simp [ResponseHolds, updating, State.reset]
  · simp only [List.mem_cons, List.not_mem_nil, or_false] at hp
    rcases hp with rfl | rfl | rfl | rfl <;>
      simp [PhaseHolds, ConfiguringOp, updating, State.reset, Config.default, mergeField]

theorem reset_inv : Inv State.reset :=
  ⟨by decide, by simp [State.reset], .inl ⟨rfl, rfl, rfl, rfl⟩, by simp [ResponseHolds, State.reset],
    by simp [PhaseHolds, State.reset]⟩

theorem measurement_exists : IsMeasurement (.measT 0x00#8) ∧ IsMeasurement (.measRh 0xFF#8) :=
  ⟨⟨_, .inl rfl⟩, ⟨_, .inr rfl⟩⟩

/-! ## Witnesses: one per statement with hypotheses, one part per clause -/

/-- A state in which the host is about to present the words. -/
def presenting (rs : List Request) : State := { State.reset with requests := rs }

theorem witness_StepRunsDecodedOperation :
    (State.reset.phase = .idle ∧ State.reset.requests = []) ∧
    ((presenting [encode (.measT 0x00#8)]).phase = .idle ∧ (Instr.measT 0x00#8).wellFormed = true ∧
      (presenting [encode (.measT 0x00#8)]).requests = encode (.measT 0x00#8) :: []) ∧
    ((updating .sWrite).phase ≠ .idle ∧ (Instr.setres 0x80#8).wellFormed = true ∧ (updating .sWrite).op = some 0xE6#8 ∧
      (updating .sWrite).arg = some 0x80#8 ∧ encode (.setres 0x80#8) = .hreq (0xE6#8 ++ 0x80#8)) := by decide

theorem witness_PlacedWordIsRunNext : 65535 < 2 ^ 16 ∧ 16777215 < 2 ^ 24 := by decide

theorem witness_DecodeAndEncodeAgree : (Instr.illegal 0xE4#8 0xFF#8).wellFormed = true := by decide

theorem witness_AcceptanceLatchesRequest :
    ((presenting [.hreq (0xE3#8 ++ 0x00#8)]).phase = .idle ∧
      (presenting [.hreq (0xE3#8 ++ 0x00#8)]).requests = .hreq (0xE3#8 ++ 0x00#8) :: []) ∧
    ((presenting [.hreq (0xE6#8 ++ 0x00#8)]).requests = .hreq (0xE6#8 ++ 0x00#8) :: []) ∧
    ((presenting [.hreq (0xFF#8 ++ 0xFF#8)]).requests = .hreq (0xFF#8 ++ 0xFF#8) :: []) ∧
    ((measuring .mMask).phase ≠ .idle ∧ (nextOf (measuring .mMask)).isSome = true) := by decide

theorem witness_UnexecutedCodesAnswerRefused :
    State.reset.phase = .idle ∧ ∃ i o a, i = Instr.softrst a ∧ o = 0xFE#8 := ⟨rfl, _, _, 0x00#8, rfl, rfl⟩

theorem witness_NothingIsCarriedOver :
    ∃ s s' : State, s ≠ s' ∧ s.phase = .idle ∧ s'.phase = .idle ∧ s.requests = [.hreq 0xE300#16] ∧
      s'.requests = [.hreq 0xE300#16] ∧ s'.cfg = s.cfg ∧ s'.avails = s.avails ∧ s'.bytes = s.bytes ∧
      s'.draws = s.draws ∧ s'.returnsLeft = s.returnsLeft ∧ s'.trace = s.trace :=
  ⟨presenting [.hreq 0xE300#16], { measuring .idle with requests := [.hreq 0xE300#16] }, by decide, by decide⟩

theorem witness_PresentationWhileBusyHasNoMeaning :
    (updating .rCmd).phase = .rCmd ∧ (measuring .mCmd).phase = .mCmd ∧ (updating .sWrite).phase = .sWrite ∧
    (measuring .mMask).phase ≠ .idle := by decide

theorem witness_TriggerCommandIsWritten :
    Fair (measuring .mCmd) ∧ (measuring .mCmd).phase = .mCmd ∧ (measuring .mCmd).op = some 0xE5#8 := by decide

theorem witness_SettleThenRequestThreeBytes :
    Fair (measuring .mSettle) ∧ (measuring .mSettle).phase = .mSettle ∧ Fair (measuring .mReq) ∧
    (measuring .mReq).phase = .mReq := by decide

/-- A state about to make a poll attempt that the bus answers with `n`. -/
def polling (k n : Nat) : State := { measuring .mPoll with att := some k, avails := [n] }

theorem witness_PollSucceedsAtThreeBytes :
    Fair (polling 0 3) ∧ (polling 0 3).phase = .mPoll ∧ 3 ≤ (polling 0 3).takeAvail.1 := by decide

theorem witness_FailedPollIsCounted :
    Fair (polling 98 2) ∧ (polling 98 2).phase = .mPoll ∧ (polling 98 2).takeAvail.1 < 3 ∧
    (polling 98 2).att = some 98 ∧ 98 + 1 < (polling 98 2).cfg.nPoll := by decide

theorem witness_LastFailedPollRaisesTimeout :
    Fair (polling 99 2) ∧ (polling 99 2).phase = .mPoll ∧ (polling 99 2).takeAvail.1 < 3 ∧
    (polling 99 2).att = some 99 ∧ 99 + 1 = (polling 99 2).cfg.nPoll := by decide

/-- A state about to fetch program P1's bytes. -/
def fetching : State := { measuring .mFetch with bytes := [0x62#8, 0x30#8, 0x49#8] }

theorem witness_FetchTakesThreeBytesInOrder :
    Fair fetching ∧ fetching.phase = .mFetch ∧ fetching.takeThree.1 = (0x62#8, 0x30#8, 0x49#8) := by decide

theorem witness_ReadingIsAssembledHighByteFirst :
    (measuring .mAsm).phase = .mAsm ∧ (measuring .mAsm).b0 = some 0x62#8 ∧ (measuring .mAsm).b1 = some 0x30#8 := by
  decide

theorem witness_CheckDecidesBetweenMaskAndFailure :
    (measuring .mCheck).phase = .mCheck ∧ (measuring .mCheck).raw = some 0x6230#16 ∧
    (measuring .mCheck).b2 = some 0x49#8 ∧ validate 0x6230#16 0x49#8 = true ∧ validate 0x6230#16 0x48#8 = false :=
  ⟨rfl, rfl, rfl, test_crc_values.2.2.1.1, test_crc_values.2.2.1.2.1⟩

theorem witness_MaskedReadingIsReturned :
    (measuring .mMask).phase = .mMask ∧ (measuring .mMask).raw = some 0x6230#16 := by decide

theorem witness_RegisterReadSequence :
    Fair (reading .rCmd) ∧ (reading .rCmd).phase = .rCmd ∧ Fair (reading .rReq) ∧ (reading .rReq).phase = .rReq ∧
    Fair (reading .rFetch) ∧ (reading .rFetch).phase = .rFetch := by decide

theorem witness_ResolutionUpdateSequence :
    Fair (updating .rCmd) ∧ (updating .rCmd).phase = .rCmd ∧ (updating .rReq).phase = .rReq ∧
    ((updating .rFetch).phase = .rFetch ∧ (updating .rFetch).arg = some 0x80#8) ∧
    ((updating .sWrite).phase = .sWrite ∧ (updating .sWrite).merged = some 0xB8#8) := by decide

theorem witness_MergeLaws :
    0x83#8 &&& 0x82#8 = 0x82#8 &&& 0x82#8 ∧ 0x3A#8 &&& ~~~0x82#8 = 0xBA#8 &&& ~~~0x82#8 := by decide

theorem witness_EnvironmentAnswersAreDrawn :
    (polling 0 3).avails = 3 :: [] ∧ State.reset.avails = [] ∧ fetching.bytes = 0x62#8 :: [0x30#8, 0x49#8] ∧
    State.reset.bytes = [] := by decide

theorem witness_CallThatNeverReturnsHangs :
    (∃ s, Inv s ∧ s.returnsLeft = some 0 ∧ s.phase = .mCmd) ∧ (∃ s, Inv s ∧ s.returnsLeft = some 0 ∧ s.phase = .mAsm) := by
  have h := measuring_inv
  exact ⟨⟨{ measuring .mCmd with returnsLeft := some 0 },
      ⟨(h .mCmd (by simp)).budget, (h .mCmd (by simp)).attempts, (h .mCmd (by simp)).crcv, (h .mCmd (by simp)).response,
        (h .mCmd (by simp)).phase⟩, rfl, rfl⟩,
    ⟨{ measuring .mAsm with returnsLeft := some 0 },
      ⟨(h .mAsm (by simp)).budget, (h .mAsm (by simp)).attempts, (h .mAsm (by simp)).crcv, (h .mAsm (by simp)).response,
        (h .mAsm (by simp)).phase⟩, rfl, rfl⟩⟩

theorem witness_CallsLeftOnlyCountDown :
    2 ≤ 2 ∧ (nextOf { measuring .mCmd with returnsLeft := none }).isSome = true := by decide

theorem witness_ValidateWritesOnlyCrcvRegisters : State.reset.phase = .idle := rfl

theorem witness_ValidatorFollowsLongDivision : 15 < 16 := by decide

theorem witness_MicroStepsGiveTheAtomicRun : 16 ≤ 16 := by decide

theorem witness_RemainderHighBitsAreCleared : 16 ≤ 16 := by decide

theorem witness_ShortErrorsAreDetected :
    remainderOf 0x623049#24 = 0#24 ∧ (0 < 24 ∧ 23 < 24 ∧ 0 ≠ 23) ∧ (0xFF#8 ≠ 0#8 ∧ 16 ≤ 16) :=
  ⟨test_crc_values.2.2.2.1.1, by decide, by decide⟩

theorem witness_ResponseWordLayout :
    (measuring .mCmd).phase ≠ .idle ∧
    (({ State.reset with outcome := some .timeout } : State).phase = .idle ∧
      ({ State.reset with outcome := some .timeout } : State).outcome = some .timeout) := by decide

/-- An ending step of each operation that has one, and a step that does not end. -/
theorem witness_OutcomeByOperation :
    (∃ s t, Inv s ∧ s.phase ≠ .idle ∧ step s = .next t ∧ t.phase = .idle) ∧
    (∃ s t, Inv s ∧ s.phase ≠ .idle ∧ step s = .next t ∧ t.phase ≠ .idle) :=
  ⟨⟨measuring .mMask, _, measuring_inv _ (by simp), by decide, rfl, rfl⟩,
    ⟨measuring .mAsm, _, measuring_inv _ (by simp), by decide, rfl, by decide⟩⟩

theorem witness_EveryStepKeepsInvariant : ∃ s t, Inv s ∧ step s = .next t :=
  ⟨measuring .mMask, _, measuring_inv _ (by simp), rfl⟩

theorem witness_BlockIsNeverStuck : Inv (measuring .mPoll) ∧ Fair (measuring .mPoll) :=
  ⟨measuring_inv _ (by simp), rfl⟩

theorem witness_EveryStepFrame :
    ∃ t, step (updating .sWrite) = .next t ∧ (updating .sWrite).phase ≠ .idle ∧ Fair (updating .sWrite) :=
  ⟨_, rfl, by decide, rfl⟩

theorem witness_OnlyLegalBusTraffic :
    ∃ t, step (updating .sWrite) = .next t ∧ Event.write 0x40#7 [0xE6#8, 0xB8#8] ∈ newEvents (updating .sWrite) t :=
  ⟨_, rfl, by decide⟩

theorem witness_MeasurementEndsWithinBudget :
    Inv (measuring .mCmd) ∧ Fair (measuring .mCmd) ∧ (measuring .mCmd).phase = .mCmd ∧
    (measuring .mCmd).op = some 0xE5#8 := ⟨measuring_inv _ (by simp), rfl, rfl, rfl⟩

theorem witness_MeasurementTraces :
    Inv (measuring .mCmd) ∧ Fair (measuring .mCmd) ∧ (measuring .mCmd).phase = .mCmd ∧
    (measuring .mCmd).op = some 0xE5#8 := witness_MeasurementEndsWithinBudget

/-- A state about to accept `MEAS.RH`, with the answers of vector M3 and the given third byte. -/
def aboutToMeasure (check : Byte) : State :=
  { presenting [encode (.measRh 0x00#8)] with avails := [0, 2, 3], bytes := [0x4E#8, 0x85#8, check] }

theorem witness_MeasurementReturnsValidReading :
    Fair (aboutToMeasure 0x6B#8) ∧ (aboutToMeasure 0x6B#8).phase = .idle ∧
    (aboutToMeasure 0x6B#8).requests = encode (.measRh 0x00#8) :: [] ∧
    (aboutToMeasure 0x6B#8).avails = [0, 2] ++ 3 :: [] ∧ (∀ m ∈ [0, 2], m < 3) ∧
    [0, 2].length < (aboutToMeasure 0x6B#8).cfg.nPoll ∧ 3 ≤ 3 ∧
    (aboutToMeasure 0x6B#8).bytes = 0x4E#8 :: 0x85#8 :: 0x6B#8 :: [] ∧ 0x6B#8 = crc8 (0x4E#8 ++ 0x85#8) :=
  ⟨rfl, rfl, rfl, rfl, by decide, by decide, by decide, rfl, test_crc_values.2.1.2.2.2.2.symm⟩

theorem witness_MeasurementRejectsBadCheckByte :
    Fair (aboutToMeasure 0x6A#8) ∧ (aboutToMeasure 0x6A#8).phase = .idle ∧
    (aboutToMeasure 0x6A#8).requests = encode (.measRh 0x00#8) :: [] ∧
    (aboutToMeasure 0x6A#8).avails = [0, 2] ++ 3 :: [] ∧ (∀ m ∈ [0, 2], m < 3) ∧
    [0, 2].length < (aboutToMeasure 0x6A#8).cfg.nPoll ∧ 3 ≤ 3 ∧
    (aboutToMeasure 0x6A#8).bytes = 0x4E#8 :: 0x85#8 :: 0x6A#8 :: [] ∧ 0x6A#8 ≠ crc8 (0x4E#8 ++ 0x85#8) :=
  ⟨rfl, rfl, rfl, rfl, by decide, by decide, by decide, rfl,
    fun h => absurd (h.trans test_crc_values.2.1.2.2.2.2) (by decide)⟩

theorem witness_HonestSensorIsRead :
    ∃ s, Fair s ∧ 1 ≤ s.cfg.nPoll ∧ s.phase = .idle ∧ s.requests = encode (.measT 0x00#8) :: [] ∧
      HonestSensor 0x6230#16 s := by
  refine ⟨{ presenting [encode (.measT 0x00#8)] with avails := [3], bytes := [0x62#8, 0x30#8, 0x49#8] }, rfl, by decide,
    rfl, rfl, ⟨3, [], rfl, Nat.le_refl 3⟩, [], ?_⟩
  rw [test_crc_values.2.1.1]
  decide

theorem witness_SilentBusTimesOut :
    ∃ s, Fair s ∧ 1 ≤ s.cfg.nPoll ∧ s.phase = .idle ∧ s.requests = encode (.measT 0x00#8) :: [] ∧ SilentBus s :=
  ⟨{ presenting [encode (.measT 0x00#8)] with
      cfg := { Config.default with nPoll := 2 }, avails := [0, 2] }, rfl, by decide, rfl, rfl, by decide, by decide⟩

theorem witness_RegisterReadReturnsByte :
    Fair (presenting [encode (.rdreg 0xAB#8)]) ∧ (presenting [encode (.rdreg 0xAB#8)]).phase = .idle ∧
    (presenting [encode (.rdreg 0xAB#8)]).requests = encode (.rdreg 0xAB#8) :: [] := by decide

theorem witness_ResolutionUpdateWritesBack :
    Fair (presenting [encode (.setres 0x80#8)]) ∧ (presenting [encode (.setres 0x80#8)]).phase = .idle ∧
    (presenting [encode (.setres 0x80#8)]).requests = encode (.setres 0x80#8) :: [] := by decide

theorem witness_LegacyNumbersNeverCollide : OutcomeCode.timeout.legacy = some 999 := rfl

theorem witness_ConvertersAreStrictlyIncreasing : (0x0000#16).toNat < (0xFFFF#16).toNat := by decide

end Sys2Proof.Tests
end

section
/-!
PROOFS. The statements of 10_state.md. CRCV's final remainder is below 256 (R118); a running operation takes one of the
steps of SEQ (R148), each with its frame and its part of the invariant; acceptance in `IDLE` depends on the request alone
(R31).
-/

namespace Sys2Proof.Machine

/-! ## The final remainder of CRCV (R118) -/

/-- The divisor's top bit stands at bit 23, and it moves down by one in each iteration (R89, R113). -/
theorem div0_shift_getLsbD {k i : Nat} (hk : k ≤ 23) (hi : 23 - k ≤ i) :
    (Config.div0 >>> k).getLsbD i = decide (i = 23 - k) := by
  rw [BitVec.getLsbD_ushiftRight]
  by_cases he : i = 23 - k
  · rw [show k + i = 23 by omega, decide_eq_true he]
    rfl
  · rw [BitVec.getLsbD_of_ge _ _ (by omega), decide_eq_false he]

/-- After `k` iterations the top `k` bits of the remainder are zero. -/
theorem crcIterations_rem_getLsbD (m : Datagram) {k : Nat} (hk : k ≤ 24) {i : Nat} (hi : 24 - k ≤ i) :
    (crcIterations m k).rem.getLsbD i = false := by
  induction k generalizing i with
  | zero => exact BitVec.getLsbD_of_ge _ _ hi
  | succ k ih =>
    have hd := div0_shift_getLsbD (k := k) (i := i) (by omega) (by omega)
    rw [crcIterations_rem_succ]
    split
    · next htop =>
      rw [BitVec.getLsbD_xor, hd]
      by_cases he : i = 23 - k
      · simp [he, htop]
      · simp [he, ih (i := i) (by omega) (by omega)]
    · next htop =>
      by_cases he : i = 23 - k
      · simpa [he] using htop
      · exact ih (by omega) (by omega)

theorem crcIterations_rem_lt (m : Datagram) {k : Nat} (hk : k ≤ 24) :
    (crcIterations m k).rem.toNat < 2 ^ (24 - k) :=
  Nat.lt_pow_two_of_testBit _ fun _ hi => crcIterations_rem_getLsbD m hk hi

theorem remainderOf_lt (m : Datagram) : (remainderOf m).toNat < 256 := by
  rw [remainderOf_eq]
  exact crcIterations_rem_lt m (k := 16) (by decide)

/-- Below 256 the low byte is the whole remainder, so the verdict tests all of it (R115). -/
theorem remainderAccepts_of_lt {r : BitVec 24} (h : r.toNat < 256) : remainderAccepts r = (r == 0#24) := by
  have hz : r.extractLsb' 0 8 = 0x00#8 ↔ r = 0#24 := by
    simp only [← BitVec.toNat_inj, BitVec.extractLsb'_toNat, BitVec.toNat_ofNat]
    omega
  rw [Bool.eq_iff_iff]
  simpa [remainderAccepts] using hz

theorem validate_eq (p : Reading) (c : Byte) : validate p c = (remainderOf (datagram p c) == 0#24) :=
  remainderAccepts_of_lt (remainderOf_lt _)

/-! ## The steps of a running operation (R148) -/

/-- The step of SEQ that leads from `s` to `t` while an operation runs: one constructor per row of R148, with `R_FETCH`
once for each of its two operations. -/
inductive SeqStep (s t : State) : Prop
  | mCmd (hp : s.phase = .mCmd) (h : stepMCmd s = .next t)
  | mSettle (hp : s.phase = .mSettle) (h : stepMSettle s = .next t)
  | mReq (hp : s.phase = .mReq) (h : stepMReq s = .next t)
  | mPoll (hp : s.phase = .mPoll) (h : stepMPoll s = .next t)
  | mFetch (hp : s.phase = .mFetch) (h : stepMFetch s = .next t)
  | mAsm (hp : s.phase = .mAsm) (h : stepMAsm s = .next t)
  | mCheck (hp : s.phase = .mCheck) (h : stepMCheck s = .next t)
  | mMask (hp : s.phase = .mMask) (h : stepMMask s = .next t)
  | rCmd (hp : s.phase = .rCmd) (h : stepRCmd s = .next t)
  | rReq (hp : s.phase = .rReq) (h : stepRReq s = .next t)
  | rFetchRead (hp : s.phase = .rFetch) (ho : s.readOp = 0xE7#8) (h : stepRFetchRead s = .next t)
  | rFetchMerge (hp : s.phase = .rFetch) (ho : s.readOp = 0xE6#8) (h : stepRFetchMerge s = .next t)
  | sWrite (hp : s.phase = .sWrite) (h : stepSWrite s = .next t)

theorem seqStep_of_step {s t : State} (hb : s.phase ≠ .idle) (ht : step s = .next t) : SeqStep s t := by
  rcases step_busy_next hb ht with ⟨-, h⟩ | ⟨ho, h⟩ | ⟨ho, h⟩
  · rcases measurement_cases hb h with
      ⟨hp, h⟩ | ⟨hp, h⟩ | ⟨hp, h⟩ | ⟨hp, h⟩ | ⟨hp, h⟩ | ⟨hp, h⟩ | ⟨hp, h⟩ | ⟨hp, h⟩
    exacts [.mCmd hp h, .mSettle hp h, .mReq hp h, .mPoll hp h, .mFetch hp h, .mAsm hp h, .mCheck hp h, .mMask hp h]
  · rcases execRdreg_cases hb h with ⟨hp, h⟩ | ⟨hp, h⟩ | ⟨hp, h⟩
    exacts [.rCmd hp h, .rReq hp h, .rFetchRead hp ho h]
  · rcases execSetres_cases hb h with ⟨hp, h⟩ | ⟨hp, h⟩ | ⟨hp, h⟩ | ⟨hp, h⟩
    exacts [.rCmd hp h, .rReq hp h, .rFetchMerge hp ho h, .sWrite hp h]

/-! ## The frame of a running operation (R25, R71, R233) -/

/-- What every step of a running operation leaves alone. -/
structure RunningFrame (s t : State) : Prop where
  cfg : t.cfg = s.cfg
  op : t.op = s.op
  arg : t.arg = s.arg
  requests : t.requests = s.requests
  trace : ∃ es, t.trace = s.trace ++ es
  draws : s.draws ≤ t.draws
  fair : Fair s → Fair t

theorem stepMPoll_frame {s t : State} (h : stepMPoll s = .next t) : RunningFrame s t := by
  obtain ⟨n, ns, d, r, hr, -, -, rfl, ⟨-, rfl⟩ | ⟨-, u, rfl, rfl⟩⟩ := stepMPoll_next h
  · exact ⟨rfl, rfl, rfl, rfl, ⟨_, rfl⟩, takeAvail_draws_le s, hr⟩
  · exact ⟨by simp, by simp, by simp, by simp, ⟨_, countFailedPoll_trace _⟩, by simpa using takeAvail_draws_le s,
      fun hf => (countFailedPoll_returnsLeft _).trans (hr hf)⟩

theorem stepMCheck_frame {s t : State} (h : stepMCheck s = .next t) : RunningFrame s t := by
  rcases stepMCheck_cases s with ⟨-, e⟩ | ⟨-, e⟩ <;> cases e.symm.trans h <;>
    exact ⟨rfl, rfl, rfl, rfl, ⟨[], by simp⟩, le_rfl, id⟩

theorem SeqStep.frame {s t : State} (h : SeqStep s t) : RunningFrame s t := by
  cases h with
  | mCmd _ h =>
    obtain ⟨r, hr, rfl⟩ := stepMCmd_next h
    exact ⟨rfl, rfl, rfl, rfl, ⟨_, rfl⟩, le_rfl, hr⟩
  | mSettle _ h =>
    obtain ⟨r, hr, rfl⟩ := stepMSettle_next h
    exact ⟨rfl, rfl, rfl, rfl, ⟨_, rfl⟩, le_rfl, hr⟩
  | mReq _ h =>
    obtain ⟨r, hr, rfl⟩ := stepMReq_next h
    exact ⟨rfl, rfl, rfl, rfl, ⟨_, rfl⟩, le_rfl, hr⟩
  | mPoll _ h => exact stepMPoll_frame h
  | mFetch _ h =>
    obtain ⟨b0, b1, b2, bs, d, r, hr, -, -, rfl, rfl⟩ := stepMFetch_next h
    exact ⟨rfl, rfl, rfl, rfl, ⟨_, rfl⟩, takeThree_draws_le s, hr⟩
  | mAsm _ h =>
    cases (stepMAsm_eq s).symm.trans h
    exact ⟨rfl, rfl, rfl, rfl, ⟨[], by simp⟩, le_rfl, id⟩
  | mCheck _ h => exact stepMCheck_frame h
  | mMask _ h =>
    cases (stepMMask_eq s).symm.trans h
    exact ⟨rfl, rfl, rfl, rfl, ⟨[], by simp⟩, le_rfl, id⟩
  | rCmd _ h =>
    obtain ⟨r, hr, rfl⟩ := stepRCmd_next h
    exact ⟨rfl, rfl, rfl, rfl, ⟨_, rfl⟩, le_rfl, hr⟩
  | rReq _ h =>
    obtain ⟨r, hr, rfl⟩ := stepRReq_next h
    exact ⟨rfl, rfl, rfl, rfl, ⟨_, rfl⟩, le_rfl, hr⟩
  | rFetchRead _ _ h =>
    obtain ⟨u, bs, d, r, hr, -, -, rfl, rfl⟩ := stepRFetchRead_next h
    exact ⟨rfl, rfl, rfl, rfl, ⟨_, rfl⟩, takeByte_draws_le s, hr⟩
  | rFetchMerge _ _ h =>
    obtain ⟨u, w, bs, d, r, hr, -, -, rfl, -, rfl⟩ := stepRFetchMerge_next h
    exact ⟨rfl, rfl, rfl, rfl, ⟨_, rfl⟩, takeByte_draws_le s, hr⟩
  | sWrite _ h =>
    obtain ⟨r, hr, rfl⟩ := stepSWrite_next h
    exact ⟨rfl, rfl, rfl, rfl, ⟨_, rfl⟩, le_rfl, hr⟩

/-- In `IDLE` a step takes at most the first request; parameters, events and the environment stay. -/
theorem step_idle_frame {s t : State} (h : s.phase = .idle) (ht : step s = .next t) :
    t.cfg = s.cfg ∧ t.trace = s.trace ∧ (t.requests = s.requests ∨ ∃ r, s.requests = r :: t.requests) ∧
      t.draws = s.draws ∧ t.returnsLeft = s.returnsLeft := by
  rcases step_idle_next h ht with ⟨-, rfl⟩ | ⟨r, rs, hr, hc⟩
  · exact ⟨rfl, rfl, .inl rfl, rfl, rfl⟩
  · rcases hc with ⟨o, a, -, rfl⟩ | ⟨o, a, -, rfl⟩ | ⟨o, a, rfl⟩ | ⟨p, c, rfl⟩ <;>
      exact ⟨rfl, rfl, .inr ⟨r, hr⟩, rfl, rfl⟩

/-! ## The parts of the invariant -/

theorem phaseHolds_idle {s : State} (h : s.phase = .idle) : PhaseHolds s := by simp [PhaseHolds, h]

/-- What the phase finds in the registers, with the phase written out. -/
theorem Inv.holds_at {s : State} {p : Phase} (hi : Inv s) (hp : s.phase = p) : PhaseHolds { s with phase := p } :=
  hp ▸ hi.phase

theorem HasBytes.exists_bytes {s : State} (h : HasBytes s) :
    ∃ b0 b1 b2, s.b0 = some b0 ∧ s.b1 = some b1 ∧ s.b2 = some b2 := by
  simpa [HasBytes, Option.isSome_iff_exists] using h

theorem crcvHolds_runCrcv (p : Reading) (c : Byte) (s : State) : CrcvHolds (s.runCrcv p c) :=
  .inr ⟨remainderOf (datagram p c), remainderOf_lt _, rfl, congrArg some (crcRun_div _), congrArg some (crcRun_idx _),
    congrArg some (validate_eq p c)⟩

/-- Where no value is held, an outcome has to be an error in `IDLE` or none at all. -/
theorem responseHolds_of_no_value {s : State} (hr : s.result = none)
    (ho : s.outcome = none ∨ (s.phase = .idle ∧ s.outcome ≠ some .ok)) : ResponseHolds s := by
  refine ⟨fun hb => ⟨?_, hr⟩, fun hok => ?_, fun v hv => ?_⟩
  · exact ho.elim id fun h => absurd h.1 hb
  · rcases ho with hn | ⟨-, hne⟩
    · cases hn.symm.trans hok
    · exact absurd hok hne
  · cases hr.symm.trans hv

/-- A response is still missing after a step that leaves `OUTCOME` and `RESULT` of a running operation alone. -/
theorem responseHolds_of_running {s t : State} (hi : Inv s) (hb : s.phase ≠ .idle) (ho : t.outcome = s.outcome)
    (hr : t.result = s.result) : ResponseHolds t :=
  have ⟨hso, hsr⟩ := hi.response.1 hb
  responseHolds_of_no_value (hr.trans hsr) (.inl (ho.trans hso))

theorem ConfiguringOp.op_of_readOp {s : State} {o : Byte} (hc : ConfiguringOp s) (h : s.readOp = o) :
    s.op = some o := by
  rcases hc.1 with e | e <;> rw [e, ← h, readOp_of_some e]

/-! ## Each step keeps the invariant -/

/-- A state just after acceptance or refusal: nothing is held but the request, and `Refused` at most (R131, R179). -/
theorem inv_latch {s : State} (hn : 1 ≤ s.cfg.nPoll) {o a : Byte} {oc : Option OutcomeCode} {p : Phase}
    (ho : oc = none ∨ (p = .idle ∧ oc ≠ some .ok))
    (hp : PhaseHolds { s.latch o a with outcome := oc, phase := p }) :
    Inv { s.latch o a with outcome := oc, phase := p } :=
  ⟨hn, nofun, .inl ⟨rfl, rfl, rfl, rfl⟩, responseHolds_of_no_value rfl ho, hp⟩

theorem step_idle_inv {s t : State} (hi : Inv s) (h : s.phase = .idle) (ht : step s = .next t) : Inv t := by
  rcases step_idle_next h ht with ⟨-, rfl⟩ | ⟨r, rs, -, hc⟩
  · exact hi
  rcases hc with ⟨o, a, ho, rfl⟩ | ⟨o, a, ho, rfl⟩ | ⟨o, a, rfl⟩ | ⟨p, c, rfl⟩
  · exact inv_latch (s := { s with requests := rs }) hi.budget (.inl rfl)
      (show MeasuringOp _ from ⟨ho.imp (congrArg some) (congrArg some), rfl⟩)
  · exact inv_latch (s := { s with requests := rs }) hi.budget (.inl rfl)
      (show ConfiguringOp _ from ⟨ho.symm.imp (congrArg some) (congrArg some), rfl⟩)
  · exact inv_latch (s := { s with requests := rs }) hi.budget (.inr ⟨rfl, by decide⟩) (phaseHolds_idle rfl)
  · exact ⟨hi.budget, hi.attempts, crcvHolds_runCrcv p c _, hi.response, phaseHolds_idle h⟩

theorem stepMReq_inv {s t : State} (hi : Inv s) (hp : s.phase = .mReq) (h : stepMReq s = .next t) : Inv t := by
  have hm : MeasuringOp s := hi.holds_at hp
  obtain ⟨r, -, rfl⟩ := stepMReq_next h
  refine ⟨hi.budget, fun k hk => ?_, hi.crcv, responseHolds_of_running hi (by simp [hp]) rfl rfl, hm, 0, rfl, hi.budget⟩
  cases hk
  exact Nat.zero_le _

/-- A failed attempt counts at most up to the budget: below it polling goes on, at it the operation times out. -/
theorem countFailedPoll_inv {s : State} (hi : Inv s) (hp : s.phase = .mPoll) : Inv (countFailedPoll s) := by
  obtain ⟨hm, k, hk, hlt⟩ : MeasuringOp s ∧ ∃ k, s.att = some k ∧ k < s.cfg.nPoll :=
    hi.holds_at hp
  have hatt : ∀ j, some (s.readAtt + 1) = some j → j ≤ s.cfg.nPoll := by
    rintro j ⟨⟩
    rwa [readAtt_of_some hk]
  rcases countFailedPoll_cases s with ⟨hlt', e⟩ | ⟨-, e⟩ <;> rw [e]
  · exact ⟨hi.budget, hatt, hi.crcv, responseHolds_of_running hi (by simp [hp]) rfl rfl, hm, _, rfl, hlt'⟩
  · exact ⟨hi.budget, hatt, hi.crcv, responseHolds_of_no_value rfl (.inr ⟨rfl, by simp⟩), phaseHolds_idle rfl⟩

theorem stepMPoll_inv {s t : State} (hi : Inv s) (hp : s.phase = .mPoll) (h : stepMPoll s = .next t) : Inv t := by
  have hh : MeasuringOp s ∧ ∃ k, s.att = some k ∧ k < s.cfg.nPoll := hi.holds_at hp
  obtain ⟨n, ns, d, r, -, -, -, -, ⟨-, rfl⟩ | ⟨-, u, rfl, rfl⟩⟩ := stepMPoll_next h
  · exact ⟨hi.budget, hi.attempts, hi.crcv, responseHolds_of_running hi (by simp [hp]) rfl rfl, hh⟩
  · exact countFailedPoll_inv ⟨hi.budget, hi.attempts, hi.crcv, hi.response, hi.phase⟩ hp

theorem stepMAsm_inv {s t : State} (hi : Inv s) (hp : s.phase = .mAsm) (h : stepMAsm s = .next t) : Inv t := by
  obtain ⟨hm, hbytes⟩ : MeasuringOp s ∧ HasBytes s := hi.holds_at hp
  obtain ⟨b0, b1, -, h0, h1, -⟩ := hbytes.exists_bytes
  cases (stepMAsm_eq s).symm.trans h
  refine ⟨hi.budget, hi.attempts, hi.crcv, responseHolds_of_running hi (by simp [hp]) rfl rfl, hm, hbytes, b0, b1,
    h0, h1, ?_⟩
  rw [readB0_of_some h0, readB1_of_some h1]

theorem stepMCheck_inv {s t : State} (hi : Inv s) (hp : s.phase = .mCheck) (h : stepMCheck s = .next t) : Inv t := by
  obtain ⟨hm, hbytes, hraw⟩ : MeasuringOp s ∧ HasBytes s ∧ HasRaw s := hi.holds_at hp
  obtain ⟨-, -, b2, -, -, hb2⟩ := hbytes.exists_bytes
  have ⟨b0, b1, _, _, hr⟩ := hraw
  rcases stepMCheck_cases s with ⟨hv, e⟩ | ⟨-, e⟩ <;> cases e.symm.trans h
  · refine ⟨hi.budget, hi.attempts, crcvHolds_runCrcv _ _ s, responseHolds_of_running hi (by simp [hp]) rfl rfl, hm,
      hraw, ⟨_, b2, hr, hb2, ?_⟩, congrArg some hv⟩
    rwa [readRaw_of_some hr, readB2_of_some hb2] at hv
  · exact ⟨hi.budget, hi.attempts, crcvHolds_runCrcv _ _ s, responseHolds_of_no_value rfl (.inr ⟨rfl, by simp⟩),
      phaseHolds_idle rfl⟩

theorem stepMMask_inv {s t : State} (hi : Inv s) (hp : s.phase = .mMask) (h : stepMMask s = .next t) : Inv t := by
  obtain ⟨hm, hraw, hval, -⟩ : MeasuringOp s ∧ HasRaw s ∧ HasValidated s ∧ s.valid = some true :=
    hi.holds_at hp
  have ⟨b0, b1, _, _, hr⟩ := hraw
  cases (stepMMask_eq s).symm.trans h
  refine ⟨hi.budget, hi.attempts, hi.crcv, ⟨by simp, by simp, fun v hv => ⟨rfl, .inl ⟨hm, hraw, hval, ?_⟩⟩⟩,
    phaseHolds_idle rfl⟩
  cases hv
  simp [hr, readRaw_of_some hr]

theorem stepRFetchRead_inv {s t : State} (hi : Inv s) (hp : s.phase = .rFetch) (ho : s.readOp = 0xE7#8)
    (h : stepRFetchRead s = .next t) : Inv t := by
  have hc : ConfiguringOp s := hi.holds_at hp
  obtain ⟨u, bs, d, r, -, -, -, -, rfl⟩ := stepRFetchRead_next h
  exact ⟨hi.budget, hi.attempts, hi.crcv, ⟨by simp, by simp, fun v hv => ⟨rfl, .inr ⟨hc.op_of_readOp ho, hv⟩⟩⟩,
    phaseHolds_idle rfl⟩

theorem stepRFetchMerge_inv {s t : State} (hi : Inv s) (hp : s.phase = .rFetch) (ho : s.readOp = 0xE6#8)
    (h : stepRFetchMerge s = .next t) : Inv t := by
  have hc : ConfiguringOp s := hi.holds_at hp
  obtain ⟨a, ha⟩ := Option.isSome_iff_exists.mp hc.2
  obtain ⟨u, w, bs, d, r, -, -, -, -, hw, rfl⟩ := stepRFetchMerge_next h
  exact ⟨hi.budget, hi.attempts, hi.crcv, responseHolds_of_running hi (by simp [hp]) rfl rfl, hc.op_of_readOp ho,
    u, a, rfl, ha, congrArg some (hw a ha)⟩

theorem stepSWrite_inv {s t : State} (hi : Inv s) (hp : s.phase = .sWrite) (h : stepSWrite s = .next t) : Inv t := by
  have ⟨ho, _⟩ : s.op = some 0xE6#8 ∧ _ := hi.holds_at hp
  obtain ⟨r, -, rfl⟩ := stepSWrite_next h
  exact ⟨hi.budget, hi.attempts, hi.crcv, ⟨by simp, fun _ _ => ho, by simp⟩, phaseHolds_idle rfl⟩

theorem SeqStep.inv {s t : State} (hi : Inv s) (h : SeqStep s t) : Inv t := by
  cases h with
  | mCmd hp h =>
    have hm : MeasuringOp s := hi.holds_at hp
    obtain ⟨r, -, rfl⟩ := stepMCmd_next h
    exact ⟨hi.budget, hi.attempts, hi.crcv, responseHolds_of_running hi (by simp [hp]) rfl rfl, hm⟩
  | mSettle hp h =>
    have hm : MeasuringOp s := hi.holds_at hp
    obtain ⟨r, -, rfl⟩ := stepMSettle_next h
    exact ⟨hi.budget, hi.attempts, hi.crcv, responseHolds_of_running hi (by simp [hp]) rfl rfl, hm⟩
  | mReq hp h => exact stepMReq_inv hi hp h
  | mPoll hp h => exact stepMPoll_inv hi hp h
  | mFetch hp h =>
    have hm : MeasuringOp s ∧ ∃ k, s.att = some k ∧ k < s.cfg.nPoll := hi.holds_at hp
    obtain ⟨b0, b1, b2, bs, d, r, -, -, -, -, rfl⟩ := stepMFetch_next h
    exact ⟨hi.budget, hi.attempts, hi.crcv, responseHolds_of_running hi (by simp [hp]) rfl rfl, hm.1, rfl, rfl, rfl⟩
  | mAsm hp h => exact stepMAsm_inv hi hp h
  | mCheck hp h => exact stepMCheck_inv hi hp h
  | mMask hp h => exact stepMMask_inv hi hp h
  | rCmd hp h =>
    have hc : ConfiguringOp s := hi.holds_at hp
    obtain ⟨r, -, rfl⟩ := stepRCmd_next h
    exact ⟨hi.budget, hi.attempts, hi.crcv, responseHolds_of_running hi (by simp [hp]) rfl rfl, hc⟩
  | rReq hp h =>
    have hc : ConfiguringOp s := hi.holds_at hp
    obtain ⟨r, -, rfl⟩ := stepRReq_next h
    exact ⟨hi.budget, hi.attempts, hi.crcv, responseHolds_of_running hi (by simp [hp]) rfl rfl, hc⟩
  | rFetchRead hp ho h => exact stepRFetchRead_inv hi hp ho h
  | rFetchMerge hp ho h => exact stepRFetchMerge_inv hi hp ho h
  | sWrite hp h => exact stepSWrite_inv hi hp h

/-! ## Acceptance of a host request (R31, R131) -/

theorem decode_encode {i : Instr} (h : i.wellFormed = true) : decode (encode i) = i := by
  cases i with
  | measT a => exact Laws.DecodeEncode.measT a h
  | measRh a => exact Laws.DecodeEncode.measRh a h
  | setres a => exact Laws.DecodeEncode.setres a h
  | rdreg a => exact Laws.DecodeEncode.rdreg a h
  | measTNh a => exact Laws.DecodeEncode.measTNh a h
  | measRhNh a => exact Laws.DecodeEncode.measRhNh a h
  | softrst a => exact Laws.DecodeEncode.softrst a h
  | illegal o a => exact Laws.DecodeEncode.illegal o a h
  | crcValidate p c => exact Laws.DecodeEncode.crcValidate p c h

/-- What presentation of a code makes of the state that has latched it: the code decides the first phase, or the refusal
(R131). -/
def State.enter (op : Byte) (s : State) : State :=
  if op = 0xE3#8 ∨ op = 0xE5#8 then s.goto .mCmd
  else if op = 0xE7#8 ∨ op = 0xE6#8 then s.goto .rCmd
  else { s with outcome := some .refused, phase := .idle }

/-- In `IDLE` a code and an operand meet nothing of the state but what the latching keeps of it. -/
theorem exec_decodeCode_idle {s : State} (h : s.phase = .idle) (o a : Byte) :
    exec (decodeCode o a) s = .next ((s.latch o a).enter o) := by
  rcases decodeCode_cases o a with
    ⟨rfl, e⟩ | ⟨rfl, e⟩ | ⟨rfl, e⟩ | ⟨rfl, e⟩ | ⟨rfl, e⟩ | ⟨rfl, e⟩ | ⟨rfl, e⟩ | ⟨hc, e⟩ <;> rw [e]
  · exact measurement_idle h codeMeasT a
  · exact measurement_idle h codeMeasRh a
  · exact execSetres_idle h a
  · exact execRdreg_idle h a
  · exact presentUnexecuted_idle h codeMeasTNh a
  · exact presentUnexecuted_idle h codeMeasRhNh a
  · exact presentUnexecuted_idle h codeSoftRst a
  · refine (presentUnexecuted_idle h o a).trans ?_
    simp [definedCodes] at hc
    simp [State.enter, hc]

theorem step_idle_hreq {s : State} {w : BitVec 16} {rs : List Request} (h : s.phase = .idle)
    (hr : s.requests = .hreq w :: rs) :
    step s = .next ((({ s with requests := rs } : State).latch (hreqOp w) (hreqArg w)).enter (hreqOp w)) :=
  (step_idle_cons h hr).trans (exec_decodeCode_idle (s := { s with requests := rs }) h _ _)

/-- Latching keeps `PHASE`, the parameters and the model's own fields, and overwrites every other register (R31). -/
theorem latch_congr {s s' : State} (o a : Byte) (rs : List Request) (hp : s.phase = s'.phase) (hc : s.cfg = s'.cfg)
    (ha : s.avails = s'.avails) (hb : s.bytes = s'.bytes) (hd : s.draws = s'.draws)
    (hl : s.returnsLeft = s'.returnsLeft) (ht : s.trace = s'.trace) :
    ({ s with requests := rs } : State).latch o a = ({ s' with requests := rs } : State).latch o a := by
  simp only [State.latch, hp, hc, ha, hb, hd, hl, ht]

/-! ## Presentation while another operation runs (R34) -/

theorem measurement_refused {s : State} (h : s.phase = .rCmd ∨ s.phase = .rReq ∨ s.phase = .rFetch ∨ s.phase = .sWrite)
    (c a : Byte) : measurement c a s = .refused .requestWhileBusy := by
  rcases h with h | h | h | h <;> simp [measurement, h]

/-- The phases of a measurement. -/
def Phase.Measuring (p : Phase) : Prop :=
  p = .mCmd ∨ p = .mSettle ∨ p = .mReq ∨ p = .mPoll ∨ p = .mFetch ∨ p = .mAsm ∨ p = .mCheck ∨ p = .mMask

theorem execRdreg_refused {s : State} (h : s.phase.Measuring ∨ s.phase = .sWrite) (a : Byte) :
    execRdreg a s = .refused .requestWhileBusy := by
  rcases h with (h | h | h | h | h | h | h | h) | h <;> simp [execRdreg, h]

theorem execSetres_refused {s : State} (h : s.phase.Measuring) (a : Byte) :
    execSetres a s = .refused .requestWhileBusy := by
  rcases h with h | h | h | h | h | h | h | h <;> simp [execSetres, h]

theorem presentUnexecuted_busy {s : State} (h : s.phase ≠ .idle) (o a : Byte) :
    presentUnexecuted o a s = .refused .requestWhileBusy := if_pos (busy_iff.mpr h)

theorem execCrcValidate_busy {s : State} (h : s.phase ≠ .idle) (p : Reading) (c : Byte) :
    execCrcValidate p c s = .refused .requestWhileBusy := if_pos (busy_iff.mpr h)

/-! ## The statements -/

/-- Settles O37: in `IDLE` by the four ways a step can go, while an operation runs by the steps of SEQ. -/
theorem everyStepKeepsInvariant : Obligations.EveryStepKeepsInvariant := by
  intro s t hi ht
  by_cases h : s.phase = .idle
  · exact step_idle_inv hi h ht
  · exact (seqStep_of_step h ht).inv hi

/-- Settles O9: both states latch the request into the same state, and only that state is used. -/
theorem nothingIsCarriedOver : Obligations.NothingIsCarriedOver := by
  intro s s' w rs h h' hr hr' hcfg havails hbytes hdraws hleft htrace
  rw [step_idle_hreq h hr, step_idle_hreq h' hr',
    latch_congr _ _ rs (h.trans h'.symm) hcfg.symm havails.symm hbytes.symm hdraws.symm hleft.symm htrace.symm]

/-- Settles O39: in `IDLE` only the list of requests moves; while an operation runs, by the frame of SEQ's steps. -/
theorem everyStepFrame : Obligations.EveryStepFrame := by
  intro s t ht
  by_cases h : s.phase = .idle
  · obtain ⟨hcfg, htrace, hreq, hdraws, hleft⟩ := step_idle_frame h ht
    exact ⟨hcfg, ⟨[], by simp [htrace]⟩, fun hb => absurd h hb, hreq, hdraws.ge, hleft.trans⟩
  · obtain ⟨hcfg, hop, harg, hreq, htrace, hdraws, hfair⟩ := (seqStep_of_step h ht).frame
    exact ⟨hcfg, htrace, fun _ => ⟨hop, harg, hreq⟩, .inl hreq, hdraws, hfair⟩

/-- Settles O1: every register is empty by definition, and `IDLE` without a request waits. -/
theorem resetIsIdleAndEmpty : Obligations.ResetIsIdleAndEmpty :=
  ⟨rfl, rfl, rfl, rfl, rfl, rfl, rfl, rfl, rfl, rfl, rfl, rfl, rfl, rfl, rfl, rfl, step_idle_nil rfl rfl⟩

/-- Settles O2: an operation is read back from its word, whether the host presents it or `OP` and `ARG` hold it. -/
theorem stepRunsDecodedOperation : Obligations.StepRunsDecodedOperation := by
  refine fun s => ⟨step_idle_nil, fun i rs h hw hr => ?_, fun i o a hb hw ho ha he => ?_⟩
  · rw [step_idle_cons h hr, decode_encode hw]
  · have hcur : s.current = i :=
      calc s.current
        _ = decodeCode o a := current_of_some ho ha
        _ = decode (hreqWord o a) := (decode_hreqWord o a).symm
        _ = decode (encode i) := congrArg decode he.symm
        _ = i := decode_encode hw
    rw [step_busy hb, hcur]

/-- Settles O10: each meaning refuses the phases that are not its own. -/
theorem presentationWhileBusyHasNoMeaning : Obligations.PresentationWhileBusyHasNoMeaning := fun _ a o c p =>
  ⟨fun h => ⟨measurement_refused h codeMeasT a, measurement_refused h codeMeasRh a⟩,
    fun h => ⟨execRdreg_refused (.inl h) a, execSetres_refused h a⟩,
    fun h => execRdreg_refused (.inr h) a,
    fun h => ⟨presentUnexecuted_busy h codeMeasTNh a, presentUnexecuted_busy h codeMeasRhNh a,
      presentUnexecuted_busy h codeSoftRst a, presentUnexecuted_busy h o a, execCrcValidate_busy h p c⟩⟩

/-- Settles O36: after reset no register is held, so each clause is about nothing but the default parameters. -/
theorem invariantHoldsAtReset : Obligations.InvariantHoldsAtReset :=
  ⟨by decide, nofun, .inl ⟨rfl, rfl, rfl, rfl⟩, responseHolds_of_no_value rfl (.inl rfl), phaseHolds_idle rfl⟩

end Sys2Proof.Machine
end

section
/-!
PROOFS. The statements of 20_memory.md. A step goes on unless one of its calls never returns (R77, R216); the events of a
step are those of its phase (R58 to R61); one check byte validates a payload (R119); and a measurement is followed from
acceptance through its poll attempts to its response, under the two premises of R78.
-/

namespace Sys2Proof.Machine

/-! ## The environment's answers (R77) -/

theorem takeAvail_nil {s : State} (h : s.avails = []) :
    s.takeAvail = (Config.drawAvail s.draws, { s with draws := s.draws + 1 }) := by simp [State.takeAvail, h]

theorem takeByte_nil {s : State} (h : s.bytes = []) :
    s.takeByte = (Config.drawByte s.draws, { s with draws := s.draws + 1 }) := by simp [State.takeByte, h]

/-! ## A part of a step goes on, or hangs in a call (R216) -/

/-- A part of a step that runs in `s` answers, or it hangs in a call that never returns, which the fairness premise
excludes. It is never refused. -/
def GoesOn {α : Type} (s : State) (o : Result α) : Prop :=
  (∃ a, o = .next a) ∨ (o = .fault .capabilityNeverReturns ∧ ¬ Fair s)

theorem GoesOn.next {α : Type} (s : State) (a : α) : GoesOn s (.next a : Result α) := .inl ⟨a, rfl⟩

theorem GoesOn.andThen {α β : Type} {s : State} {o : Result α} {f : α → Result β} (h : GoesOn s o)
    (hf : ∀ a, o = .next a → GoesOn s (f a)) : GoesOn s (andThen o f) := by
  rcases h with ⟨a, rfl⟩ | ⟨rfl, hn⟩
  · exact hf a rfl
  · exact .inr ⟨rfl, hn⟩

/-- Only a call can hang, so a part that ends in an answer goes on as its call does. -/
theorem GoesOn.andThen_next {α β : Type} {s : State} {o : Result α} (h : GoesOn s o) (g : α → β) :
    GoesOn s (Machine.andThen o fun a => .next (g a)) :=
  h.andThen fun a _ => .next s (g a)

/-- A part that runs in a later state `u` hangs only where fairness failed at the start already. -/
theorem GoesOn.of_later {α : Type} {s u : State} {o : Result α} (hf : Fair s → Fair u) (h : GoesOn u o) : GoesOn s o :=
  h.imp id fun ⟨ho, hn⟩ => ⟨ho, mt hf hn⟩

theorem awaitReturn_goesOn (s : State) : GoesOn s (awaitReturn s) := by
  cases h : awaitReturn s with
  | next t => exact .next s t
  | fault r =>
    obtain ⟨rfl, hl⟩ := awaitReturn_fault h
    exact .inr ⟨rfl, by simp [Fair, hl]⟩
  | refused r => exact absurd h awaitReturn_not_refused

theorem busWrite_goesOn (a : DeviceAddress) (bs : List Byte) (s : State) : GoesOn s (busWrite a bs s) :=
  (awaitReturn_goesOn s).andThen_next _

theorem busRequest_goesOn (a : DeviceAddress) (n : Nat) (s : State) : GoesOn s (busRequest a n s) :=
  (awaitReturn_goesOn s).andThen_next _

theorem busAvail_goesOn (s : State) : GoesOn s (busAvail s) := (awaitReturn_goesOn s).andThen_next _

theorem busFetch1_goesOn (s : State) : GoesOn s (busFetch1 s) := (awaitReturn_goesOn s).andThen_next _

theorem busFetch3_goesOn (s : State) : GoesOn s (busFetch3 s) := (awaitReturn_goesOn s).andThen_next _

theorem sleep_goesOn (ms : Nat) (s : State) : GoesOn s (sleep ms s) := (awaitReturn_goesOn s).andThen_next _

/-! ## Each step of SEQ goes on (R148) -/

/-- A failed poll attempt makes two calls, and the second runs in the state the first has left. -/
theorem stepMPoll_goesOn (s : State) : GoesOn s (stepMPoll s) := by
  refine (busAvail_goesOn s).andThen fun ⟨n, u⟩ hu => ?_
  obtain ⟨r, ns, d, rfl, hr, -⟩ := busAvail_next hu
  split
  · exact .next s _
  · exact .of_later hr ((sleep_goesOn _ _).andThen_next _)

theorem stepMCheck_goesOn (s : State) : GoesOn s (stepMCheck s) := by
  rcases stepMCheck_cases s with ⟨-, e⟩ | ⟨-, e⟩ <;> exact .inl ⟨_, e⟩

/-- A measurement goes on in each of its own phases. -/
theorem measurement_goesOn {s : State} (h : s.phase.Measuring) (c a : Byte) : GoesOn s (measurement c a s) := by
  rcases h with h | h | h | h | h | h | h | h <;> simp only [measurement, h]
  · exact (busWrite_goesOn _ _ s).andThen_next _
  · exact (sleep_goesOn _ s).andThen_next _
  · exact (busRequest_goesOn _ _ s).andThen_next _
  · exact stepMPoll_goesOn s
  · exact (busFetch3_goesOn s).andThen_next _
  · exact .next s _
  · exact stepMCheck_goesOn s
  · exact .next s _

/-- The phases of a control-register read, which `RDREG` and `SETRES` share. -/
def Phase.Reading (p : Phase) : Prop := p = .rCmd ∨ p = .rReq ∨ p = .rFetch

theorem execRdreg_goesOn {s : State} (h : s.phase.Reading) (a : Byte) : GoesOn s (execRdreg a s) := by
  rcases h with h | h | h <;> simp only [execRdreg, h]
  · exact (busWrite_goesOn _ _ s).andThen_next _
  · exact (busRequest_goesOn _ _ s).andThen_next _
  · exact (busFetch1_goesOn s).andThen_next _

theorem execSetres_goesOn {s : State} (h : s.phase.Reading ∨ s.phase = .sWrite) (a : Byte) :
    GoesOn s (execSetres a s) := by
  rcases h with (h | h | h) | h <;> simp only [execSetres, h]
  · exact (busWrite_goesOn _ _ s).andThen_next _
  · exact (busRequest_goesOn _ _ s).andThen_next _
  · exact (busFetch1_goesOn s).andThen_next _
  · exact (busWrite_goesOn _ _ s).andThen_next _

/-! ## The operation the invariant finds in progress -/

/-- With a measurement's code in `OP` a step belongs to that measurement. -/
theorem MeasuringOp.step_eq {s : State} (hm : MeasuringOp s) (hb : s.phase ≠ .idle) :
    step s = measurement s.readOp s.readArg s := by
  obtain ⟨ho, harg⟩ := hm
  obtain ⟨a, ha⟩ := Option.isSome_iff_exists.mp harg
  rcases ho with ho | ho <;> rw [step_busy hb, current_of_some ho ha, readOp_of_some ho, readArg_of_some ha] <;> rfl

theorem step_eq_execSetres {s : State} (ho : s.op = some 0xE6#8) (ha : s.arg.isSome) (hb : s.phase ≠ .idle) :
    step s = execSetres s.readArg s := by
  obtain ⟨a, ha⟩ := Option.isSome_iff_exists.mp ha
  rw [step_busy hb, current_of_some ho ha, readArg_of_some ha]
  rfl

theorem step_eq_execRdreg {s : State} (ho : s.op = some 0xE7#8) (ha : s.arg.isSome) (hb : s.phase ≠ .idle) :
    step s = execRdreg s.readArg s := by
  obtain ⟨a, ha⟩ := Option.isSome_iff_exists.mp ha
  rw [step_busy hb, current_of_some ho ha, readArg_of_some ha]
  rfl

theorem MeasuringOp.goesOn {s : State} (hm : MeasuringOp s) (hp : s.phase.Measuring) : GoesOn s (step s) := by
  have hb : s.phase ≠ .idle := fun h => by simp [Phase.Measuring, h] at hp
  rw [hm.step_eq hb]
  exact measurement_goesOn hp _ _

theorem ConfiguringOp.goesOn {s : State} (hc : ConfiguringOp s) (hp : s.phase.Reading) : GoesOn s (step s) := by
  have hb : s.phase ≠ .idle := fun h => by simp [Phase.Reading, h] at hp
  obtain ⟨ho | ho, ha⟩ := hc
  · rw [step_eq_execRdreg ho ha hb]
    exact execRdreg_goesOn hp _
  · rw [step_eq_execSetres ho ha hb]
    exact execSetres_goesOn (.inl hp) _

/-- In `IDLE` no call is made: the block waits, or takes a word of either port. -/
theorem step_idle_goesOn {s : State} (h : s.phase = .idle) : GoesOn s (step s) := by
  cases hr : s.requests with
  | nil => exact .inl ⟨_, step_idle_nil h hr⟩
  | cons r rs =>
    cases r with
    | hreq w => exact .inl ⟨_, step_idle_hreq h hr⟩
    | dgram w =>
      have hcrc := execCrcValidate_idle (s := { s with requests := rs }) h
      exact .inl ⟨_, (step_idle_cons h hr).trans (hcrc _ _)⟩

/-- In each phase the invariant finds the operation whose phase it is, so the step is one of that operation. -/
theorem Inv.step_goesOn {s : State} (hi : Inv s) : GoesOn s (step s) := by
  cases h : s.phase with
  | idle => exact step_idle_goesOn h
  | mCmd | mSettle | mReq =>
    have hm : MeasuringOp s := hi.holds_at h
    exact hm.goesOn (by simp [Phase.Measuring, h])
  | mPoll | mFetch =>
    have hm : MeasuringOp s ∧ _ := hi.holds_at h
    exact hm.1.goesOn (by simp [Phase.Measuring, h])
  | mAsm =>
    have hm : MeasuringOp s ∧ HasBytes s := hi.holds_at h
    exact hm.1.goesOn (by simp [Phase.Measuring, h])
  | mCheck =>
    have hm : MeasuringOp s ∧ HasBytes s ∧ HasRaw s := hi.holds_at h
    exact hm.1.goesOn (by simp [Phase.Measuring, h])
  | mMask =>
    have hm : MeasuringOp s ∧ HasRaw s ∧ HasValidated s ∧ s.valid = some true := hi.holds_at h
    exact hm.1.goesOn (by simp [Phase.Measuring, h])
  | rCmd | rReq | rFetch =>
    have hc : ConfiguringOp s := hi.holds_at h
    exact hc.goesOn (by simp [Phase.Reading, h])
  | sWrite =>
    obtain ⟨ho, u, a, -, ha, -⟩ : s.op = some 0xE6#8 ∧
      ∃ u a, s.ureg = some u ∧ s.arg = some a ∧ s.merged = some (mergeField s.cfg.resMask u a) := hi.holds_at h
    rw [step_eq_execSetres ho (by simp [ha]) (by simp [h])]
    exact execSetres_goesOn (.inr h) _

/-! ## The events of a step (R50, R58 to R61) -/

/-- The lists of events one step from `s` can add: one constructor per kind of step that calls the environment. The
command written in `M_CMD` is a measurement's, and the control register is written in `S_WRITE` of `SETRES` only. -/
inductive StepEvents (s : State) : List Event → Prop
  | silent : StepEvents s []
  | trigger (ho : s.readOp = 0xE3#8 ∨ s.readOp = 0xE5#8) : StepEvents s [.write Config.devAddr [s.readOp]]
  | settle : StepEvents s [.sleep s.cfg.tSettleMs]
  | requestThree : StepEvents s [.request Config.devAddr 3]
  | ready (n : Nat) : StepEvents s [.avail n]
  | failed (n : Nat) : StepEvents s [.avail n, .sleep s.cfg.tPollMs]
  | fetchThree (b0 b1 b2 : Byte) : StepEvents s [.fetch [b0, b1, b2]]
  | readCommand : StepEvents s [.write Config.devAddr [codeReadReg]]
  | requestOne : StepEvents s [.request Config.devAddr 1]
  | fetchOne (u : Byte) : StepEvents s [.fetch [u]]
  | writeBack (hp : s.phase = .sWrite) (hc : s.current = .setres s.readArg) :
      StepEvents s [.write Config.devAddr [codeWriteReg, s.readMerged]]

theorem newEvents_of_trace {s t : State} {es : List Event} (h : t.trace = s.trace ++ es) : newEvents s t = es := by
  simp [newEvents, h]

theorem StepEvents.of_trace {s t : State} {es : List Event} (he : StepEvents s es) (h : t.trace = s.trace ++ es) :
    StepEvents s (newEvents s t) := by
  rwa [newEvents_of_trace h]

/-- `M_CMD` is a phase of the measurements alone. -/
theorem readOp_of_mCmd {s t : State} (hp : s.phase = .mCmd) (ht : step s = .next t) :
    s.readOp = 0xE3#8 ∨ s.readOp = 0xE5#8 := by
  rcases step_busy_next (by simp [hp]) ht with ⟨ho, -⟩ | ⟨-, h⟩ | ⟨-, h⟩
  · exact ho
  · cases (execRdreg_refused (.inl (.inl hp)) _).symm.trans h
  · cases (execSetres_refused (.inl hp) _).symm.trans h

/-- `S_WRITE` is a phase of `SETRES` alone. -/
theorem current_of_sWrite {s t : State} (hp : s.phase = .sWrite) (ht : step s = .next t) :
    s.current = .setres s.readArg := by
  rcases step_busy_next (by simp [hp]) ht with ⟨-, h⟩ | ⟨-, h⟩ | ⟨ho, -⟩
  · cases (measurement_refused (.inr (.inr (.inr hp))) _ _).symm.trans h
  · cases (execRdreg_refused (.inr hp) _).symm.trans h
  · rw [State.current, ho]
    rfl

theorem step_busy_events {s t : State} (hb : s.phase ≠ .idle) (ht : step s = .next t) :
    StepEvents s (newEvents s t) := by
  cases seqStep_of_step hb ht with
  | mCmd hp h =>
    obtain ⟨r, -, rfl⟩ := stepMCmd_next h
    exact (StepEvents.trigger (readOp_of_mCmd hp ht)).of_trace rfl
  | mSettle _ h =>
    obtain ⟨r, -, rfl⟩ := stepMSettle_next h
    exact StepEvents.settle.of_trace rfl
  | mReq _ h =>
    obtain ⟨r, -, rfl⟩ := stepMReq_next h
    exact StepEvents.requestThree.of_trace rfl
  | mPoll _ h =>
    obtain ⟨n, ns, d, r, -, -, -, -, ⟨-, rfl⟩ | ⟨-, u, rfl, rfl⟩⟩ := stepMPoll_next h
    · exact (StepEvents.ready n).of_trace rfl
    · exact (StepEvents.failed n).of_trace (countFailedPoll_trace _)
  | mFetch _ h =>
    obtain ⟨b0, b1, b2, bs, d, r, -, -, -, -, rfl⟩ := stepMFetch_next h
    exact (StepEvents.fetchThree b0 b1 b2).of_trace rfl
  | mAsm _ h =>
    cases (stepMAsm_eq s).symm.trans h
    exact StepEvents.silent.of_trace (by simp)
  | mCheck _ h =>
    rcases stepMCheck_cases s with ⟨-, e⟩ | ⟨-, e⟩ <;> cases e.symm.trans h <;>
      exact StepEvents.silent.of_trace (by simp)
  | mMask _ h =>
    cases (stepMMask_eq s).symm.trans h
    exact StepEvents.silent.of_trace (by simp)
  | rCmd _ h =>
    obtain ⟨r, -, rfl⟩ := stepRCmd_next h
    exact StepEvents.readCommand.of_trace rfl
  | rReq _ h =>
    obtain ⟨r, -, rfl⟩ := stepRReq_next h
    exact StepEvents.requestOne.of_trace rfl
  | rFetchRead _ _ h =>
    obtain ⟨u, bs, d, r, -, -, -, -, rfl⟩ := stepRFetchRead_next h
    exact (StepEvents.fetchOne u).of_trace rfl
  | rFetchMerge _ _ h =>
    obtain ⟨u, w, bs, d, r, -, -, -, -, -, rfl⟩ := stepRFetchMerge_next h
    exact (StepEvents.fetchOne u).of_trace rfl
  | sWrite hp h =>
    obtain ⟨r, -, rfl⟩ := stepSWrite_next h
    exact (StepEvents.writeBack hp (current_of_sWrite hp ht)).of_trace rfl

theorem step_events {s t : State} (ht : step s = .next t) : StepEvents s (newEvents s t) := by
  by_cases h : s.phase = .idle
  · obtain ⟨-, htrace, -⟩ := step_idle_frame h ht
    exact StepEvents.silent.of_trace (by simp [htrace])
  · exact step_busy_events h ht

theorem StepEvents.legal {s : State} {es : List Event} (h : StepEvents s es) : ∀ e ∈ es, LegalEvent s.cfg e := by
  cases h with
  | trigger ho => simpa [LegalEvent, Config.devAddr] using ho.imp_right .inl
  | _ => simp [LegalEvent, Config.devAddr, codeReadReg, codeWriteReg]

/-- Of all the steps only the one in `S_WRITE` writes two bytes. -/
theorem StepEvents.sWrite_of_write_pair {s : State} {es : List Event} (h : StepEvents s es) {addr : DeviceAddress}
    {c d : Byte} (hw : Event.write addr [c, d] ∈ es) :
    s.phase = .sWrite ∧ s.current = .setres s.readArg ∧ d = s.readMerged := by
  cases h with
  | writeBack hp hc =>
    simp only [List.mem_singleton, Event.write.injEq, List.cons.injEq] at hw
    exact ⟨hp, hc, hw.2.2.1⟩
  | _ => simp at hw

/-! ## The check byte that validates (R119) -/

/-- The low byte of the dividend never decides an iteration, so an error there is carried along unchanged. -/
theorem crcIterations_rem_xor_low (m e : Datagram) (he : ∀ i, 8 ≤ i → e.getLsbD i = false) {k : Nat} (hk : k ≤ 16) :
    (crcIterations (m ^^^ e) k).rem = (crcIterations m k).rem ^^^ e := by
  induction k with
  | zero => rfl
  | succ k ih =>
    have htop : e.getLsbD (23 - k) = false := he _ (by omega)
    rw [crcIterations_rem_succ, crcIterations_rem_succ, ih (by omega), BitVec.getLsbD_xor, htop, Bool.xor_false]
    split
    · rw [BitVec.xor_assoc, BitVec.xor_comm e, ← BitVec.xor_assoc]
    · rfl

/-- A datagram is its payload with a zero check byte, and the check byte on top of that. -/
theorem datagram_eq_xor (p : Reading) (c : Byte) : datagram p c = datagram p 0x00#8 ^^^ c.setWidth 24 := by
  apply BitVec.eq_of_getLsbD_eq
  intro i hi
  simp only [datagram, BitVec.getLsbD_xor, BitVec.getLsbD_append, BitVec.getLsbD_setWidth, hi]
  by_cases h : i < 8
  · simp [h]
  · simp [h, BitVec.getLsbD_of_ge c i (by omega)]

/-- The final remainder is the received check byte against the computed one. -/
theorem remainderOf_datagram (p : Reading) (c : Byte) : remainderOf (datagram p c) = (c ^^^ crc8 p).setWidth 24 := by
  have hlow : (crc8 p).setWidth 24 = remainderOf (datagram p 0x00#8) := by
    have hlt := remainderOf_lt (datagram p 0x00#8)
    apply BitVec.eq_of_toNat_eq
    simp only [crc8, BitVec.toNat_setWidth, BitVec.extractLsb'_toNat]
    omega
  have hhigh : ∀ i, 8 ≤ i → (c.setWidth 24).getLsbD i = false := fun i hi => by simp [hi]
  rw [datagram_eq_xor, remainderOf_eq, crcIterations_rem_xor_low _ _ hhigh le_rfl, ← remainderOf_eq, ← hlow,
    BitVec.setWidth_xor, BitVec.xor_comm]

theorem validate_iff (p : Reading) (c : Byte) : validate p c = true ↔ c = crc8 p := by
  have hzero (b : Byte) : b.setWidth 24 = 0#24 ↔ b = 0#8 := by
    simp only [← BitVec.toNat_inj, BitVec.toNat_setWidth, BitVec.toNat_ofNat]
    omega
  rw [validate_eq, remainderOf_datagram, beq_iff_eq, hzero, BitVec.xor_eq_zero_iff]

/-! ## Runs -/

/-- `k` steps of the machine: `Host.Core.run` of the model's core, with its state named as the model names it. -/
def runSteps : Nat → State → Result State
  | 0, s => .next s
  | k + 1, s => andThen (step s) (runSteps k)

theorem run_eq_runSteps (k : Nat) (s : State) : Host.Core.run core k s = runSteps k s := by
  induction k generalizing s with
  | zero => rfl
  | succ k ih =>
    have hcore : core.step s = step s := rfl
    cases h : step s <;>
      simp only [Host.Core.run, runSteps, hcore.trans h, h, andThen_next, andThen_fault, andThen_refused, ih] <;> rfl

theorem runSteps_of_step {s u : State} (h : step s = .next u) (k : Nat) : runSteps (k + 1) s = runSteps k u := by
  rw [runSteps, h, andThen_next]

theorem runSteps_add {s u : State} {j : Nat} (h : runSteps j s = .next u) (k : Nat) :
    runSteps (j + k) s = runSteps k u := by
  induction j generalizing s with
  | zero =>
    cases h
    rw [Nat.zero_add]
  | succ j ih =>
    obtain ⟨v, hs, hv⟩ := andThen_eq_next h
    rw [Nat.succ_add, runSteps_of_step hs, ih hv]

/-! ## From acceptance to the first poll attempt (R131 to R134) -/

theorem MeasuringOp.step_mCmd {s : State} (hm : MeasuringOp s) (hf : Fair s) (hp : s.phase = .mCmd) :
    step s = .next { s with phase := .mSettle, trace := s.trace ++ [.write Config.devAddr [s.readOp]] } := by
  rw [hm.step_eq (by simp [hp])]
  simp only [measurement, hp, stepMCmd, writeCommand, busWrite_fair hf, andThen_next]
  rfl

theorem MeasuringOp.step_mSettle {s : State} (hm : MeasuringOp s) (hf : Fair s) (hp : s.phase = .mSettle) :
    step s = .next { s with phase := .mReq, trace := s.trace ++ [.sleep s.cfg.tSettleMs] } := by
  rw [hm.step_eq (by simp [hp])]
  simp only [measurement, hp, stepMSettle, sleep_fair hf, andThen_next]
  rfl

theorem MeasuringOp.step_mReq {s : State} (hm : MeasuringOp s) (hf : Fair s) (hp : s.phase = .mReq) :
    step s = .next { s with phase := .mPoll, att := some 0, trace := s.trace ++ [.request Config.devAddr 3] } := by
  rw [hm.step_eq (by simp [hp])]
  simp only [measurement, hp, stepMReq, busRequest_fair hf, andThen_next]
  rfl

/-- The trigger command, the settle sleep and the request, from the first phase of a measurement. -/
theorem MeasuringOp.runSteps_to_mPoll {s : State} {o : Byte} (hm : MeasuringOp s) (ho : s.op = some o) (hf : Fair s)
    (hp : s.phase = .mCmd) :
    runSteps 3 s = .next { s with
      phase := .mPoll, att := some 0,
      trace := s.trace ++ [.write 0x40#7 [o], .sleep s.cfg.tSettleMs, .request 0x40#7 3] } := by
  have hm' : ∀ p tr, MeasuringOp { s with phase := p, trace := tr } := fun _ _ => hm
  refine (runSteps_of_step (hm.step_mCmd hf hp) 2).trans ?_
  refine (runSteps_of_step ((hm' .mSettle _).step_mSettle hf rfl) 1).trans ?_
  refine (runSteps_of_step ((hm' .mReq _).step_mReq hf rfl) 0).trans ?_
  simp [runSteps, readOp_of_some ho, Config.devAddr]

/-- The state in which a measurement accepted in `s` makes its first poll attempt. -/
def State.firstPoll (o a : Byte) (rs : List Request) (s : State) : State :=
  { ({ s with requests := rs } : State).latch o a with
    phase := .mPoll, att := some 0,
    trace := s.trace ++ [.write 0x40#7 [o], .sleep s.cfg.tSettleMs, .request 0x40#7 3] }

/-- A word with a measurement's code is accepted, and the measurement runs up to its first poll attempt. -/
theorem runSteps_to_firstPoll {s : State} {o a : Byte} {rs : List Request} (ho : o = 0xE3#8 ∨ o = 0xE5#8) (hf : Fair s)
    (h : s.phase = .idle) (hr : s.requests = hreqWord o a :: rs) : runSteps 4 s = .next (s.firstPoll o a rs) := by
  have haccept : step s = .next ((({ s with requests := rs } : State).latch o a).goto .mCmd) := by
    rw [step_idle_hreq h hr, hreqOp_append, hreqArg_append, State.enter, if_pos ho]
  have hm : MeasuringOp ((({ s with requests := rs } : State).latch o a).goto .mCmd) :=
    ⟨ho.imp (congrArg some) (congrArg some), rfl⟩
  exact (runSteps_of_step haccept 3).trans (hm.runSteps_to_mPoll rfl hf rfl)

/-! ## Poll attempts (R135 to R137) -/

theorem countFailedPoll_below {s : State} {k : Nat} (h : s.att = some k) (hk : k + 1 < s.cfg.nPoll) :
    countFailedPoll s = { s with att := some (k + 1), phase := .mPoll } := by
  rcases countFailedPoll_cases s with ⟨-, e⟩ | ⟨hle, -⟩
  · rw [e, readAtt_of_some h]
  · rw [readAtt_of_some h] at hle
    exact absurd hk (Nat.not_lt.mpr hle)

theorem countFailedPoll_last {s : State} {k : Nat} (h : s.att = some k) (hk : s.cfg.nPoll ≤ k + 1) :
    countFailedPoll s =
      { s with att := some (k + 1), outcome := some .timeout, result := none, phase := .idle } := by
  rcases countFailedPoll_cases s with ⟨hlt, -⟩ | ⟨-, e⟩
  · rw [readAtt_of_some h] at hlt
    exact absurd hlt (Nat.not_lt.mpr hk)
  · rw [e, readAtt_of_some h]

/-- SEQ is about to make a poll attempt of a measurement, after `k` failed ones, and every call returns. -/
structure Polling (k : Nat) (s : State) : Prop where
  measuring : MeasuringOp s
  fair : Fair s
  phase : s.phase = .mPoll
  att : s.att = some k

theorem State.firstPoll_polling {s : State} (hf : Fair s) {o : Byte} (ho : o = 0xE3#8 ∨ o = 0xE5#8) (a : Byte)
    (rs : List Request) : Polling 0 (s.firstPoll o a rs) :=
  ⟨⟨ho.imp (congrArg some) (congrArg some), rfl⟩, hf, rfl, rfl⟩

theorem Polling.step_eq {k : Nat} {s : State} (h : Polling k s) : step s = stepMPoll s := by
  rw [h.measuring.step_eq (by simp [h.phase])]
  simp only [measurement, h.phase]

theorem Polling.step_ready {k n : Nat} {ns : List Nat} {s : State} (h : Polling k s) (ha : s.avails = n :: ns)
    (hn : 3 ≤ n) : step s = .next { s with phase := .mFetch, avails := ns, trace := s.trace ++ [.avail n] } := by
  have hn' : Config.nResp ≤ n := hn
  rw [h.step_eq, stepMPoll, busAvail_fair h.fair, takeAvail_cons ha, andThen_next, if_pos hn']
  rfl

/-- A failed attempt is followed by one poll sleep, and then it is counted. -/
theorem Polling.step_failed {k n : Nat} {ns : List Nat} {s : State} (h : Polling k s) (ha : s.avails = n :: ns)
    (hn : n < 3) :
    step s = .next (countFailedPoll
      { s with avails := ns, trace := s.trace ++ [.avail n, .sleep s.cfg.tPollMs] }) := by
  have hn' : ¬ Config.nResp ≤ n := Nat.not_le.mpr hn
  have hf : Fair (({ s with avails := ns } : State).record (.avail n)) := h.fair
  rw [h.step_eq, stepMPoll, busAvail_fair h.fair, takeAvail_cons ha, andThen_next, if_neg hn', sleep_fair hf,
    andThen_next]
  simp [State.record]

theorem Polling.step_again {k n : Nat} {ns : List Nat} {s : State} (h : Polling k s) (ha : s.avails = n :: ns)
    (hn : n < 3) (hk : k + 1 < s.cfg.nPoll) :
    ∃ t, step s = .next t ∧ Polling (k + 1) t ∧
      t = { s with att := some (k + 1), avails := ns, trace := s.trace ++ [.avail n, .sleep s.cfg.tPollMs] } := by
  refine ⟨_, (h.step_failed ha hn).trans (congrArg _ (countFailedPoll_below h.att hk)), ?_, ?_⟩
  · exact ⟨h.measuring, h.fair, rfl, rfl⟩
  · simp only [h.phase]

theorem Polling.step_timeout {k n : Nat} {ns : List Nat} {s : State} (h : Polling k s) (ha : s.avails = n :: ns)
    (hn : n < 3) (hk : s.cfg.nPoll ≤ k + 1) :
    step s = .next { s with
      phase := .idle, att := some (k + 1), outcome := some .timeout, result := none, avails := ns,
      trace := s.trace ++ [.avail n, .sleep s.cfg.tPollMs] } :=
  (h.step_failed ha hn).trans (congrArg _ (countFailedPoll_last h.att hk))

/-- Failed attempts below the budget are counted one by one, and SEQ polls again. -/
theorem Polling.runSteps_failed {k : Nat} {ns rest : List Nat} {s : State} (h : Polling k s)
    (ha : s.avails = ns ++ rest) (hns : ∀ n ∈ ns, n < 3) (hk : k + ns.length < s.cfg.nPoll) :
    ∃ t, runSteps ns.length s = .next t ∧ Polling (k + ns.length) t ∧
      t = { s with att := some (k + ns.length), avails := rest, trace := s.trace ++ failedPolls s.cfg ns } := by
  induction ns generalizing k s with
  | nil =>
    refine ⟨s, rfl, h, ?_⟩
    simp only [List.nil_append] at ha
    simp [← ha, ← h.att, failedPolls]
  | cons n ns ih =>
    obtain ⟨hn, hns⟩ := List.forall_mem_cons.mp hns
    rw [List.length_cons] at hk
    obtain ⟨u, hu, hpoll, rfl⟩ := h.step_again ha hn (by omega)
    have hlen : k + 1 + ns.length = k + (ns.length + 1) := by omega
    obtain ⟨t, ht, hpoll', rfl⟩ := ih hpoll rfl hns (hlen ▸ hk)
    refine ⟨_, (runSteps_of_step hu _).trans ht, hlen ▸ hpoll', ?_⟩
    simp [hlen, failedPolls]

/-- Failed attempts that use up the budget end the operation with `Timeout` at the last of them. -/
theorem Polling.runSteps_timeout {k : Nat} {ns rest : List Nat} {s : State} (h : Polling k s)
    (ha : s.avails = ns ++ rest) (hns : ∀ n ∈ ns, n < 3) (hne : ns ≠ []) (hk : k + ns.length = s.cfg.nPoll) :
    runSteps ns.length s = .next { s with
      phase := .idle, att := some s.cfg.nPoll, outcome := some .timeout, result := none, avails := rest,
      trace := s.trace ++ failedPolls s.cfg ns } := by
  obtain ⟨ms, n, rfl⟩ := (List.eq_nil_or_concat' ns).resolve_left hne
  rw [List.length_append, List.length_singleton] at hk ⊢
  obtain ⟨hms, hn⟩ := List.forall_mem_append.mp hns
  obtain ⟨t, ht, hpoll, rfl⟩ := h.runSteps_failed (ha.trans (List.append_assoc ms [n] rest)) hms (by omega)
  have hlast := hpoll.step_timeout rfl (hn n (List.mem_singleton_self n)) hk.ge
  refine (runSteps_add ht 1).trans ((runSteps_of_step hlast 0).trans ?_)
  simp [runSteps, failedPolls, ← hk, Nat.add_assoc]

/-! ## Three bytes, from the fetch to the response (R138 to R142)

Where a step starts in the state another one has left, `by exact` gives it `MeasuringOp` of the earlier state, which is
about the same `OP` and `ARG`. -/

theorem MeasuringOp.step_mFetch {s : State} {b0 b1 b2 : Byte} {bs : List Byte} (hm : MeasuringOp s) (hf : Fair s)
    (hp : s.phase = .mFetch) (hb : s.bytes = b0 :: b1 :: b2 :: bs) :
    step s = .next { s with
      phase := .mAsm, b0 := some b0, b1 := some b1, b2 := some b2, bytes := bs,
      trace := s.trace ++ [.fetch [b0, b1, b2]] } := by
  rw [hm.step_eq (by simp [hp])]
  simp only [measurement, hp, stepMFetch, busFetch3_fair hf, takeThree_cons hb, andThen_next]
  rfl

theorem MeasuringOp.step_mAsm {s : State} {b0 b1 : Byte} (hm : MeasuringOp s) (hp : s.phase = .mAsm)
    (h0 : s.b0 = some b0) (h1 : s.b1 = some b1) :
    step s = .next { s with phase := .mCheck, raw := some (b0 ++ b1) } := by
  rw [hm.step_eq (by simp [hp])]
  simp only [measurement, hp, stepMAsm_eq, readB0_of_some h0, readB1_of_some h1, assembleRaw]

theorem MeasuringOp.step_mCheck_valid {s : State} {r : Reading} {c : Byte} (hm : MeasuringOp s)
    (hp : s.phase = .mCheck) (hr : s.raw = some r) (hc : s.b2 = some c) (hv : validate r c = true) :
    step s = .next ((s.runCrcv r c).goto .mMask) := by
  rw [hm.step_eq (by simp [hp])]
  simp only [measurement, hp, stepMCheck, readRaw_of_some hr, readB2_of_some hc, hv, if_true]

theorem MeasuringOp.step_mMask {s : State} {r : Reading} (hm : MeasuringOp s) (hp : s.phase = .mMask)
    (hr : s.raw = some r) : step s = .next (s.returnOk (some (corrected r))) := by
  rw [hm.step_eq (by simp [hp])]
  simp only [measurement, hp, stepMMask, readRaw_of_some hr]

/-- The state in which SEQ checks the three bytes it has fetched in `s` (R138, R139). -/
def State.fetched (b0 b1 b2 : Byte) (bs : List Byte) (s : State) : State :=
  { s with
    phase := .mCheck, b0 := some b0, b1 := some b1, b2 := some b2, raw := some (b0 ++ b1), bytes := bs,
    trace := s.trace ++ [.fetch [b0, b1, b2]] }

theorem MeasuringOp.runSteps_to_mCheck {s : State} {b0 b1 b2 : Byte} {bs : List Byte} (hm : MeasuringOp s)
    (hf : Fair s) (hp : s.phase = .mFetch) (hb : s.bytes = b0 :: b1 :: b2 :: bs) :
    runSteps 2 s = .next (s.fetched b0 b1 b2 bs) := by
  refine (runSteps_of_step (hm.step_mFetch hf hp hb) 1).trans ?_
  exact runSteps_of_step (MeasuringOp.step_mAsm (by exact hm) rfl rfl rfl) 0

/-- Three bytes whose third is the CRC of the first two end in the corrected reading. -/
theorem MeasuringOp.runSteps_valid {s : State} {b0 b1 b2 : Byte} {bs : List Byte} (hm : MeasuringOp s) (hf : Fair s)
    (hp : s.phase = .mFetch) (hb : s.bytes = b0 :: b1 :: b2 :: bs) (hv : validate (b0 ++ b1) b2 = true) :
    runSteps 4 s =
      .next (((s.fetched b0 b1 b2 bs).runCrcv (b0 ++ b1) b2).returnOk (some (corrected (b0 ++ b1)))) := by
  have hm' : MeasuringOp (s.fetched b0 b1 b2 bs) := hm
  refine (runSteps_add (hm.runSteps_to_mCheck hf hp hb) 2).trans ?_
  refine (runSteps_of_step (hm'.step_mCheck_valid rfl rfl rfl hv) 1).trans ?_
  exact runSteps_of_step (MeasuringOp.step_mMask (by exact hm) rfl rfl) 0

theorem Polling.runSteps_valid {k n : Nat} {ns : List Nat} {s : State} {b0 b1 b2 : Byte} {bs : List Byte}
    (h : Polling k s) (ha : s.avails = n :: ns) (hn : 3 ≤ n) (hb : s.bytes = b0 :: b1 :: b2 :: bs)
    (hv : validate (b0 ++ b1) b2 = true) :
    runSteps 5 s = .next
      (((({ s with avails := ns, trace := s.trace ++ [.avail n] } : State).fetched b0 b1 b2 bs).runCrcv (b0 ++ b1)
        b2).returnOk (some (corrected (b0 ++ b1)))) :=
  (runSteps_of_step (h.step_ready ha hn) 4).trans
    (MeasuringOp.runSteps_valid (by exact h.measuring) h.fair rfl hb hv)

/-! ## The word of a measurement (R85) -/

/-- The command code of a measurement. -/
def measurementCode (i : Instr) : Byte := if i.mnemonic = "MEAS.T" then 0xE3#8 else 0xE5#8

theorem measurementCode_cases (i : Instr) : measurementCode i = 0xE3#8 ∨ measurementCode i = 0xE5#8 := by
  unfold measurementCode
  split
  · exact .inl rfl
  · exact .inr rfl

theorem IsMeasurement.encode_eq {i : Instr} (h : IsMeasurement i) : ∃ a, encode i = hreqWord (measurementCode i) a := by
  obtain ⟨a, rfl | rfl⟩ := h <;> exact ⟨a, rfl⟩

/-! ## The statements -/

/-- Settles O38: a step of the invariant goes on or hangs; fairness excludes the hang, and every step keeps it. -/
theorem blockIsNeverStuck : Obligations.BlockIsNeverStuck := by
  refine ⟨fun s hi hf => ?_, fun s hi => hi.step_goesOn.imp_right And.left⟩
  rcases hi.step_goesOn with ⟨t, ht⟩ | ⟨-, hn⟩
  · obtain ⟨-, -, -, -, -, hfair⟩ := everyStepFrame s t ht
    exact ⟨t, ht, hfair hf⟩
  · exact absurd hf hn

/-- Settles O40: by the lists of events a step can add. -/
theorem onlyLegalBusTraffic : Obligations.OnlyLegalBusTraffic := fun _ _ ht =>
  ⟨(step_events ht).legal, fun _ _ hw => (step_events ht).sWrite_of_write_pair hw⟩

/-- Settles O24: each clause is one branch of the environment's answer. -/
theorem environmentAnswersAreDrawn : Obligations.EnvironmentAnswersAreDrawn := fun _ =>
  ⟨fun _ _ => takeAvail_cons, takeAvail_nil, fun _ _ => takeByte_cons, takeByte_nil⟩

/-- Settles O45: the first poll attempt succeeds, and the third byte is the CRC of the other two. -/
theorem honestSensorIsRead : Obligations.HonestSensorIsRead := by
  intro i s rs p hi hf _ hidle hr ⟨⟨n, ns, ha, hn⟩, bs, hb⟩
  obtain ⟨a, he⟩ := hi.encode_eq
  have ho := measurementCode_cases i
  have hp : p.extractLsb' 8 8 ++ p.extractLsb' 0 8 = p := hreq_fields p
  have hv : validate (p.extractLsb' 8 8 ++ p.extractLsb' 0 8) (crc8 p) = true := by rw [hp, validate_iff]
  have hrun := (runSteps_add (runSteps_to_firstPoll ho hf hidle (he ▸ hr)) 5).trans
    ((State.firstPoll_polling hf ho a rs).runSteps_valid ha hn hb hv)
  rw [hp] at hrun
  exact ⟨_, (run_eq_runSteps 9 s).trans hrun, rfl, rfl⟩

/-- Settles O46: all attempts but the last are counted and polling goes on; the last one uses up the budget. -/
theorem silentBusTimesOut : Obligations.SilentBusTimesOut := by
  intro i s rs hi hf hn hidle hr ⟨hlen, hsilent⟩
  obtain ⟨a, he⟩ := hi.encode_eq
  have ho := measurementCode_cases i
  have htake : (s.avails.take s.cfg.nPoll).length = s.cfg.nPoll := List.length_take_of_le hlen
  have hne : s.avails.take s.cfg.nPoll ≠ [] := List.ne_nil_of_length_pos (by omega)
  have hend := (State.firstPoll_polling hf ho a rs).runSteps_timeout (List.take_append_drop s.cfg.nPoll s.avails).symm
    hsilent hne ((Nat.zero_add _).trans htake)
  rw [htake] at hend
  refine ⟨_, (run_eq_runSteps _ s).trans ((runSteps_add (runSteps_to_firstPoll ho hf hidle (he ▸ hr)) _).trans hend),
    rfl, ?_, rfl, rfl, rfl, rfl⟩
  exact newEvents_of_trace (List.append_assoc _ _ _)

end Sys2Proof.Machine
end

section
/-!
PROOFS. The statements of 30_encoding.md. A word is its two fields (R81, R86), so encoding undoes decoding; a match of
R98 compares the code alone, so the operation of a word is decided by decoding and encoding being inverse.
-/

namespace Sys2Proof.Machine

/-! ## Encoding undoes decoding -/

theorem encode_decodeCode (o a : Byte) : encode (decodeCode o a) = hreqWord o a := by
  rcases decodeCode_cases o a with
    ⟨rfl, e⟩ | ⟨rfl, e⟩ | ⟨rfl, e⟩ | ⟨rfl, e⟩ | ⟨rfl, e⟩ | ⟨rfl, e⟩ | ⟨rfl, e⟩ | ⟨-, e⟩ <;> rw [e] <;> rfl

theorem decodeCode_wellFormed (o a : Byte) : (decodeCode o a).wellFormed = true := by
  rcases decodeCode_cases o a with
    ⟨-, e⟩ | ⟨-, e⟩ | ⟨-, e⟩ | ⟨-, e⟩ | ⟨-, e⟩ | ⟨-, e⟩ | ⟨-, e⟩ | ⟨hc, e⟩ <;> rw [e]
  exacts [rfl, rfl, rfl, rfl, rfl, rfl, rfl, congrArg not hc]

theorem hreqWord_fields (w : BitVec 16) : hreqWord (hreqOp w) (hreqArg w) = .hreq w :=
  congrArg Request.hreq (hreq_fields w)

theorem encode_decode (r : Request) : encode (decode r) = r := by
  cases r with
  | hreq w => exact (encode_decodeCode _ _).trans (hreqWord_fields w)
  | dgram w => exact congrArg Request.dgram (dgram_fields w)

theorem decode_wellFormed (r : Request) : (decode r).wellFormed = true := by
  cases r with
  | hreq w => exact decodeCode_wellFormed _ _
  | dgram w => rfl

/-! ## The match of a word (R98) -/

/-- The mask 0xFF00 keeps the code and clears the operand. -/
theorem and_codeMask (w : BitVec 16) : w &&& 0xFF00#16 = hreqOp w ++ 0x00#8 :=
  calc w &&& 0xFF00#16
    _ = (hreqOp w ++ hreqArg w) &&& (BitVec.allOnes 8 ++ 0x00#8) := by rw [hreq_fields]; rfl
    _ = hreqOp w ++ 0x00#8 := by rw [BitVec.and_append, BitVec.and_allOnes, BitVec.and_zero]

theorem and_codeMask_eq_iff {w : BitVec 16} {c : Byte} : w &&& 0xFF00#16 = c ++ 0x00#8 ↔ hreqOp w = c := by
  rw [and_codeMask]
  refine ⟨fun h => ?_, congrArg (· ++ 0x00#8)⟩
  rw [← hreqOp_append (hreqOp w) 0x00#8, h, hreqOp_append]

/-- A word matches a code if and only if it decodes to the operation this code and the word's operand encode. -/
theorem code_match_iff {w : BitVec 16} (c : Byte) {i : Instr} (hw : i.wellFormed = true)
    (he : encode i = hreqWord c (hreqArg w)) : w &&& 0xFF00#16 = c ++ 0x00#8 ↔ decodeHreq w = i := by
  refine and_codeMask_eq_iff.trans ⟨fun h => ?_, fun h => ?_⟩
  · have hword : encode i = .hreq w := by rw [he, ← h, hreqWord_fields]
    exact (congrArg decode hword).symm.trans (decode_encode hw)
  · have hword : hreqWord c (hreqArg w) = .hreq w := by rw [← he, ← h]; exact encode_decode (.hreq w)
    rw [← Request.hreq.inj hword, hreqOp_append]

theorem decodeHreq_illegal_iff (w : BitVec 16) :
    decodeHreq w = .illegal (hreqOp w) (hreqArg w) ↔ hreqOp w ∉ definedCodes := by
  have hwf : (Instr.illegal (hreqOp w) (hreqArg w)).wellFormed = true ↔ hreqOp w ∉ definedCodes := by
    simp [Instr.wellFormed]
  refine Iff.trans ⟨fun h => h ▸ decode_wellFormed (.hreq w), fun h => ?_⟩ hwf
  exact (congrArg decode (hreqWord_fields w)).symm.trans (decode_encode h)

/-- A word matches no code of a list that holds the seven codes (R85) if and only if its code is not defined. -/
theorem no_code_match_iff {cs : List Byte} (hp : cs.Perm definedCodes) (w : BitVec 16) :
    (∀ c ∈ cs.map (· ++ 0x00#8), w &&& 0xFF00#16 ≠ c) ↔ hreqOp w ∉ definedCodes := by
  rw [List.forall_mem_map, ← hp.mem_iff]
  exact ⟨fun h hm => h _ hm (and_codeMask_eq_iff.mpr rfl), fun h c hc hm => h (and_codeMask_eq_iff.mp hm ▸ hc)⟩

/-! ## Numbers read as port words (R80) -/

theorem decodeTableWord_hreq (o a : Byte) : decodeTableWord 16 (o ++ a).toNat = some (decodeCode o a) := by
  rw [decodeTableWord, decodeWord, portWord_hreq (o ++ a).isLt, BitVec.ofNat_toNat, BitVec.setWidth_eq]
  exact congrArg some (decode_hreqWord o a)

theorem decodeTableWord_dgram (p : Reading) (c : Byte) :
    decodeTableWord 24 (p ++ c).toNat = some (.crcValidate p c) := by
  rw [decodeTableWord, decodeWord, portWord_dgram (p ++ c).isLt, BitVec.ofNat_toNat, BitVec.setWidth_eq]
  exact congrArg some (Laws.DecodeEncode.crcValidate p c rfl)

/-! ## The corrected reading (R92) -/

theorem corrected_eq (r : Reading) : corrected r = r &&& 0xFFFC#16 := rfl

theorem corrected_statusBits (r : Reading) : corrected r &&& 0x0003#16 = 0#16 := by
  rw [corrected_eq, BitVec.and_assoc]
  exact BitVec.and_zero

theorem corrected_toNat_mod (r : Reading) : (corrected r).toNat % 4 = 0 :=
  calc (corrected r).toNat % 4
    _ = (corrected r &&& 0x0003#16).toNat := (Nat.and_two_pow_sub_one_eq_mod _ 2).symm
    _ = 0 := by rw [corrected_statusBits]; rfl

/-! ## The response (R31, R82) -/

theorem response_busy {s : State} (h : s.phase ≠ .idle) : s.response = none := if_pos (busy_iff.mpr h)

theorem response_idle {s : State} (h : s.phase = .idle) :
    s.response = s.outcome.map fun o => { outcome := o, value := s.result } :=
  if_neg fun hb => busy_iff.mp hb h

/-! ## The statements -/

/-- Settles O4: one lemma per constructor of an operation, and one case per code of a word. -/
theorem decodeAndEncodeAgree : Obligations.DecodeAndEncodeAgree :=
  ⟨fun _ => decode_encode, fun r => ⟨decode_wellFormed r, encode_decode r⟩⟩

/-- Settles O5: each match compares the code alone, and decoding undoes the encoding of the row's operation. -/
theorem codeMapDecidesOperation : Obligations.CodeMapDecidesOperation := by
  intro w
  have hperm : [0xE3#8, 0xE5#8, 0xE6#8, 0xE7#8, 0xF3#8, 0xF5#8, 0xFE#8].Perm definedCodes := by decide
  exact ⟨code_match_iff codeMeasT rfl rfl, code_match_iff codeMeasRh rfl rfl, code_match_iff codeWriteReg rfl rfl,
    code_match_iff codeReadReg rfl rfl, code_match_iff codeMeasTNh rfl rfl, code_match_iff codeMeasRhNh rfl rfl,
    code_match_iff codeSoftRst rfl rfl,
    (no_code_match_iff hperm w).trans (decodeHreq_illegal_iff w).symm⟩

/-- Settles O3: a number that fits the port is the word placed, and the placed word is run. -/
theorem placedWordIsRunNext : Obligations.PlacedWordIsRunNext := fun _ _ =>
  ⟨fun h => step_presented (portWord_hreq h), fun h => step_presented (portWord_dgram h)⟩

/-- Settles O6: each number is its code above its operand, or its payload above its check byte. -/
theorem writtenOutWordsDecode : Obligations.WrittenOutWordsDecode :=
  ⟨decodeTableWord_hreq 0xE3#8 0x00#8, decodeTableWord_hreq 0xE5#8 0xFF#8, decodeTableWord_hreq 0xE6#8 0x80#8,
    decodeTableWord_hreq 0xE7#8 0xAB#8, decodeTableWord_hreq 0xF3#8 0x00#8, decodeTableWord_hreq 0xF5#8 0x00#8,
    decodeTableWord_hreq 0xFE#8 0x00#8, decodeTableWord_hreq 0xE4#8 0xFF#8, decodeTableWord_dgram 0x6230#16 0x49#8⟩

/-- Settles O23: the mask keeps every bit but the two status bits. -/
theorem maskLaws : Obligations.MaskLaws := by
  refine fun r => ⟨corrected_statusBits r, ?_, corrected_eq r⟩
  rw [corrected_eq, BitVec.and_assoc, BitVec.and_self]

/-- Settles O34: the codes and the word by definition, the response by the phase. -/
theorem responseWordLayout : Obligations.ResponseWordLayout := by
  refine ⟨rfl, rfl, rfl, rfl, fun _ _ => rfl, fun _ => rfl, fun _ => response_busy, fun s o h ho => ?_⟩
  rw [response_idle h, ho, Option.map_some]

/-- Settles O49: a corrected reading is a multiple of four, and neither 998 nor 999 is one. -/
theorem legacyNumbersNeverCollide : Obligations.LegacyNumbersNeverCollide := by
  refine ⟨rfl, rfl, fun r e n he hn => ?_⟩
  have hmod : n % 4 = 0 := hn ▸ corrected_toNat_mod r
  cases e with
  | ok => cases he
  | refused => cases he
  | checksumFailure => cases he; exact absurd hmod (by decide)
  | timeout => cases he; exact absurd hmod (by decide)

end Sys2Proof.Machine
end

section
/-!
PROOFS. The statements of 40_crc_validator.md. The micro-steps are the iterations (R123); the remainder is linear
(R121); of one byte at bit `i` it is the shift register's content after `i` shifts (R120), and from these two facts
follow the CRC of a payload (R120) and the errors that are detected (R121).
-/

namespace Sys2Proof.Machine

/-! ## The micro-steps (R40, R123) -/

theorem crcIterations_valid (m : Datagram) (k : Nat) : (crcIterations m k).valid = none := by
  induction k with
  | zero => rfl
  | succ k ih => exact ih

theorem crcMicroSteps_eq_crcIterations (m : Datagram) {k : Nat} (hk : k ≤ 16) :
    crcMicroSteps m k = crcIterations m k := by
  induction k with
  | zero => rfl
  | succ k ih =>
    have hidx : (crcIterations m k).idx < Config.crcIter := (crcIterations_idx m k).trans_lt hk
    rw [crcMicroSteps, ih (by omega), crcMicroStep, if_pos hidx, crcIterations_succ]

/-! ## The remainder is linear (R121) -/

/-- One more iteration as an exclusive-or, of the divisor or of nothing. -/
theorem crcIterations_rem_succ_xor (m : Datagram) (k : Nat) :
    (crcIterations m (k + 1)).rem =
      (crcIterations m k).rem ^^^ (if (crcIterations m k).rem.getLsbD (23 - k) then Config.div0 >>> k else 0#24) := by
  rw [crcIterations_rem_succ]
  split
  · rfl
  · exact BitVec.xor_zero.symm

/-- What is exclusive-ored where a bit is set, is linear in that bit. -/
theorem ite_xor_eq {w : Nat} (p q : Bool) (d : BitVec w) :
    (if (p ^^ q) = true then d else 0#w) = (if p = true then d else 0#w) ^^^ (if q = true then d else 0#w) := by
  cases p <;> cases q <;> simp

theorem crcIterations_rem_xor (a b : Datagram) (k : Nat) :
    (crcIterations (a ^^^ b) k).rem = (crcIterations a k).rem ^^^ (crcIterations b k).rem := by
  induction k with
  | zero => rfl
  | succ k ih =>
    simp only [crcIterations_rem_succ_xor, ih, BitVec.getLsbD_xor, ite_xor_eq]
    ac_rfl

theorem remainderOf_xor (a b : Datagram) : remainderOf (a ^^^ b) = remainderOf a ^^^ remainderOf b :=
  crcIterations_rem_xor a b 16

/-! ## The shift register (R120) -/

theorem lfsrShifts_eq_iterate (k : Nat) (x : Byte) : lfsrShifts k x = lfsrShift^[k] x := by
  induction k generalizing x with
  | zero => rfl
  | succ k ih => exact ih _

theorem lfsrShifts_succ (k : Nat) (x : Byte) : lfsrShifts (k + 1) x = lfsrShift (lfsrShifts k x) := by
  simp only [lfsrShifts_eq_iterate, Function.iterate_succ_apply']

theorem lfsrShifts_add (j k : Nat) (x : Byte) : lfsrShifts (j + k) x = lfsrShifts j (lfsrShifts k x) := by
  simp only [lfsrShifts_eq_iterate, Function.iterate_add_apply]

theorem lfsrShift_eq_xor (x : Byte) : lfsrShift x = x <<< 1 ^^^ (if x.getLsbD 7 then 0x31#8 else 0#8) := by
  unfold lfsrShift
  split
  · rfl
  · exact BitVec.xor_zero.symm

theorem lfsrShift_xor (x y : Byte) : lfsrShift (x ^^^ y) = lfsrShift x ^^^ lfsrShift y := by
  simp only [lfsrShift_eq_xor, BitVec.getLsbD_xor, ite_xor_eq, BitVec.shiftLeft_xor_distrib]
  ac_rfl

theorem lfsrShifts_xor (k : Nat) (x y : Byte) : lfsrShifts k (x ^^^ y) = lfsrShifts k x ^^^ lfsrShifts k y := by
  simp only [lfsrShifts_eq_iterate]
  exact Function.Semiconj₂.iterate lfsrShift_xor k x y

/-- A shift loses nothing: where a bit leaves at the top, the polynomial's lowest coefficient enters at the bottom. -/
theorem lfsrShift_ne_zero {x : Byte} (h : x ≠ 0#8) : lfsrShift x ≠ 0#8 := by
  rw [lfsrShift_eq_xor]
  cases htop : x.getLsbD 7 with
  | true => exact fun hz => by simpa using congrArg (·.getLsbD 0) hz
  | false =>
    have hlt : x.toNat < 2 ^ 7 := BitVec.toNat_lt_of_msb_false htop
    have hshift : x <<< 1 ≠ 0#8 := by bv_omega
    simpa using hshift

theorem lfsrShifts_ne_zero {x : Byte} (h : x ≠ 0#8) (k : Nat) : lfsrShifts k x ≠ 0#8 := by
  induction k with
  | zero => exact h
  | succ k ih => exact lfsrShifts_succ k x ▸ lfsrShift_ne_zero ih

/-- In 24 bits the bit that leaves the register at the top is still there. -/
theorem setWidth_shiftLeft_one (x : Byte) :
    x.setWidth 24 <<< 1 = (x <<< 1).setWidth 24 ^^^ (if x.getLsbD 7 then BitVec.twoPow 24 8 else 0#24) := by
  apply BitVec.eq_of_getLsbD_eq
  intro i hi
  have hbit : (if x.getLsbD 7 then BitVec.twoPow 24 8 else 0#24).getLsbD i = (decide (i = 8) && x.getLsbD 7) := by
    cases x.getLsbD 7 <;> simp [BitVec.getLsbD_twoPow, eq_comm]
  rw [BitVec.getLsbD_xor, hbit]
  rcases lt_trichotomy i 8 with h | rfl | h
  · simp only [BitVec.getLsbD_shiftLeft, BitVec.getLsbD_setWidth]
    simp [h, h.ne, hi, show i - 1 < 24 by omega]
  · simp
  · simp [h.ne', h.le, show 8 ≤ i - 1 by omega]

/-- The whole polynomial, without bits to fall off at the top, does what the shift does with its low byte. -/
theorem lfsrShift_setWidth (x : Byte) :
    (lfsrShift x).setWidth 24 = x.setWidth 24 <<< 1 ^^^ (if x.getLsbD 7 then 0x131#24 else 0#24) := by
  rw [lfsrShift_eq_xor, setWidth_shiftLeft_one, BitVec.setWidth_xor, BitVec.xor_assoc]
  cases x.getLsbD 7 <;> rfl

/-! ## The remainder of one byte (R118, R120) -/

/-- The divisor of the iteration that finds the byte's top bit at bit `n + 8` (R118). -/
theorem div0_shift_eq {n : Nat} (hn : n ≤ 15) : Config.div0 >>> (15 - n) = 0x131#24 <<< n := by
  interval_cases n <;> rfl

/-- A datagram whose top `k` bits are zero is left alone by `k` iterations. -/
theorem crcIterations_rem_of_lt {m : Datagram} {k : Nat} (h : m.toNat < 2 ^ (24 - k)) :
    (crcIterations m k).rem = m := by
  induction k with
  | zero => rfl
  | succ k ih =>
    have hm : (crcIterations m k).rem = m := ih (h.trans_le (Nat.pow_le_pow_right (by decide) (by omega)))
    have htop : m.getLsbD (23 - k) = false := Nat.testBit_lt_two_pow (by simpa using h)
    rw [crcIterations_rem_succ, hm, htop]
    rfl

theorem shiftedByte_lt (x : Byte) (i : Nat) : (x.setWidth 24 <<< i).toNat < 2 ^ (8 + i) := by
  calc (x.setWidth 24 <<< i).toNat
    _ ≤ (x.setWidth 24).toNat <<< i := Nat.mod_le _ _
    _ = x.toNat * 2 ^ i := by rw [BitVec.toNat_setWidth_of_le (by decide), Nat.shiftLeft_eq]
    _ < 2 ^ 8 * 2 ^ i := Nat.mul_lt_mul_of_pos_right x.isLt (Nat.two_pow_pos i)
    _ = 2 ^ (8 + i) := (Nat.pow_add 2 8 i).symm

/-- Iterations do nothing until they reach a byte's top bit; from there each of them is one shift of the register, one
bit further down. After `16 - n` of them a byte that stood at bit `n + k` has gone through `k` shifts and stands at bit
`n`. -/
theorem crcIterations_rem_shiftedByte (x : Byte) {n k : Nat} (h : n + k ≤ 16) :
    (crcIterations (x.setWidth 24 <<< (n + k)) (16 - n)).rem = (lfsrShifts k x).setWidth 24 <<< n := by
  induction k generalizing n with
  | zero =>
    have hlt := shiftedByte_lt x n
    rw [show 8 + n = 24 - (16 - n) by omega] at hlt
    exact crcIterations_rem_of_lt hlt
  | succ k ih =>
    have hbefore : (crcIterations (x.setWidth 24 <<< (n + (k + 1))) (15 - n)).rem =
        (lfsrShifts k x).setWidth 24 <<< (1 + n) := by
      rw [show n + (k + 1) = 1 + n + k by omega, show 15 - n = 16 - (1 + n) by omega]
      exact ih (by omega)
    have htop : ((lfsrShifts k x).setWidth 24 <<< (1 + n)).getLsbD (23 - (15 - n)) = (lfsrShifts k x).getLsbD 7 := by
      rw [show 23 - (15 - n) = 7 + (1 + n) by omega]
      simp [show 7 + (1 + n) < 24 by omega]
    rw [show 16 - n = 15 - n + 1 by omega, crcIterations_rem_succ_xor, hbefore, htop, div0_shift_eq (by omega),
      lfsrShifts_succ, lfsrShift_setWidth, BitVec.shiftLeft_xor_distrib, BitVec.shiftLeft_add]
    split
    · rfl
    · rw [BitVec.zero_shiftLeft]

theorem remainderOf_shiftedByte (x : Byte) {i : Nat} (hi : i ≤ 16) :
    remainderOf (x.setWidth 24 <<< i) = (lfsrShifts i x).setWidth 24 := by
  have h : 0 + i ≤ 16 := by rwa [Nat.zero_add]
  have hrun := crcIterations_rem_shiftedByte x h
  rwa [Nat.zero_add, BitVec.shiftLeft_zero] at hrun

/-! ## The CRC of a payload (R119, R120) -/

theorem setWidth_byte_injective : Function.Injective (BitVec.setWidth 24 : Byte → BitVec 24) := by
  intro x y h
  simpa using congrArg (BitVec.setWidth 8) h

/-- A payload with a zero check byte is its two bytes, each at its place. -/
theorem datagram_zero_eq_xor (p : Reading) :
    datagram p 0x00#8 =
      (p.extractLsb' 8 8).setWidth 24 <<< 16 ^^^ (p.extractLsb' 0 8).setWidth 24 <<< 8 := by
  apply BitVec.eq_of_getLsbD_eq
  intro i hi
  simp only [datagram, BitVec.getLsbD_append, BitVec.getLsbD_xor, BitVec.getLsbD_shiftLeft, BitVec.getLsbD_setWidth,
    BitVec.getLsbD_extractLsb', hi]
  rcases lt_or_ge i 8 with h | h
  · simp [h, show i < 16 by omega]
  · rcases lt_or_ge i 16 with h' | h'
    · simp [h', h.not_gt, show i - 8 < 8 by omega, show i - 8 < 24 by omega]
    · simp [h.not_gt, h'.not_gt, show ¬ i - 8 < 8 by omega, show i - 16 < 8 by omega, show i - 16 < 24 by omega,
        show 8 + (i - 16) = i - 8 by omega]

/-- Each byte of the payload goes through as many shifts as there are bits below it. -/
theorem crc8_eq_lfsrShifts (p : Reading) :
    crc8 p = lfsrShifts 16 (p.extractLsb' 8 8) ^^^ lfsrShifts 8 (p.extractLsb' 0 8) := by
  apply setWidth_byte_injective
  calc (crc8 p).setWidth 24
    _ = remainderOf (datagram p 0x00#8) := by rw [remainderOf_datagram, BitVec.zero_xor]
    _ = (lfsrShifts 16 (p.extractLsb' 8 8) ^^^ lfsrShifts 8 (p.extractLsb' 0 8)).setWidth 24 := by
      rw [datagram_zero_eq_xor, remainderOf_xor, remainderOf_shiftedByte _ (by decide),
        remainderOf_shiftedByte _ (by decide), BitVec.setWidth_xor]

theorem lfsrCrc8_eq_lfsrShifts (p : Reading) :
    lfsrCrc8 p = lfsrShifts 16 (p.extractLsb' 8 8) ^^^ lfsrShifts 8 (p.extractLsb' 0 8) := by
  rw [lfsrCrc8, lfsrByte, lfsrByte, BitVec.zero_xor, lfsrShifts_xor, ← lfsrShifts_add]

/-! ## Errors that are detected (R121) -/

/-- An error confined to eight adjacent bits is detected. -/
theorem remainderOf_burst_ne_zero {b : Byte} (hb : b ≠ 0#8) {k : Nat} (hk : k ≤ 16) :
    remainderOf (b.setWidth 24 <<< k) ≠ 0#24 := by
  rw [remainderOf_shiftedByte b hk]
  exact setWidth_byte_injective.ne (lfsrShifts_ne_zero hb k)

/-- The remainders of no error and of the 24 one-bit errors, evaluated: no two of them are the same. -/
theorem remainderOf_oneBit_nodup :
    (0#24 :: (List.range 24).map fun i => remainderOf (1#24 <<< i)).Nodup := by decide +kernel

theorem remainderOf_oneBit_ne_zero {i : Nat} (hi : i < 24) : remainderOf (1#24 <<< i) ≠ 0#24 := fun h =>
  (List.nodup_cons.mp remainderOf_oneBit_nodup).1 (List.mem_map.mpr ⟨i, List.mem_range.mpr hi, h⟩)

theorem remainderOf_twoBits_ne_zero {i j : Nat} (hi : i < 24) (hj : j < 24) (hij : i ≠ j) :
    remainderOf (1#24 <<< i ^^^ 1#24 <<< j) ≠ 0#24 := by
  rw [remainderOf_xor, Ne, BitVec.xor_eq_zero_iff]
  exact fun h => hij (List.inj_on_of_nodup_map (List.nodup_cons.mp remainderOf_oneBit_nodup).2
    (List.mem_range.mpr hi) (List.mem_range.mpr hj) h)

/-! ## The statements -/

/-- Settles O29: up to the sixteenth, a micro-step is an iteration, and the seventeenth is the result. -/
theorem microStepsGiveTheAtomicRun : Obligations.MicroStepsGiveTheAtomicRun := by
  refine fun m => ⟨?_, fun k hk => ?_⟩
  · have hidx : ¬ (crcIterations m 16).idx < Config.crcIter := (crcIterations_idx m 16).not_lt
    rw [crcMicroSteps, crcMicroSteps_eq_crcIterations m le_rfl, crcMicroStep, if_neg hidx]
    rfl
  · rw [crcMicroSteps_eq_crcIterations m hk]
    exact ⟨crcIterations_idx m k, crcIterations_valid m k⟩

/-- Settles O30: each iteration clears one more bit at the top, so after sixteen the low byte is all that is left. -/
theorem remainderHighBitsAreCleared : Obligations.RemainderHighBitsAreCleared := by
  refine ⟨fun m k hk => crcIterations_rem_lt m (by omega), fun m => ⟨remainderOf_lt m, ?_⟩⟩
  have hverdict := remainderAccepts_of_lt (remainderOf_lt m)
  rwa [remainderAccepts, Bool.eq_iff_iff, beq_iff_eq, beq_iff_eq] at hverdict

/-- Settles O31: the low byte of the datagram never decides an iteration; the six values are evaluated. -/
theorem validExactlyForTheCrc : Obligations.ValidExactlyForTheCrc :=
  ⟨fun p c => ⟨remainderOf_datagram p c, validate_iff p c⟩, by decide +kernel⟩

/-- Settles O32: both forms shift the first byte sixteen times and the second eight times. -/
theorem byteSerialFormGivesTheCrc : Obligations.ByteSerialFormGivesTheCrc := fun p =>
  (lfsrCrc8_eq_lfsrShifts p).trans (crc8_eq_lfsrShifts p).symm

/-- Settles O33: linearity turns every question about errors into one about their own remainders. -/
theorem shortErrorsAreDetected : Obligations.ShortErrorsAreDetected := by
  refine ⟨remainderOf_xor, fun m e hm => ?_, fun i j hi hj hij => ?_, fun b k hb hk => remainderOf_burst_ne_zero hb hk⟩
  · rw [remainderOf_xor, hm, BitVec.zero_xor]
  · exact ⟨remainderOf_oneBit_ne_zero hi, remainderOf_twoBits_ne_zero hi hj hij⟩

/-- Settles O27: in `IDLE` the port is open, and a run leaves the same divisor and index whatever the data. -/
theorem validateWritesOnlyCrcvRegisters : Obligations.ValidateWritesOnlyCrcvRegisters := by
  intro s p c h
  refine (execCrcValidate_idle h p c).trans ?_
  rw [State.runCrcv, crcRun_div, crcRun_idx, crcRun_valid]
  rfl

/-- Settles O28: the initialisation, one iteration, and the result, each by its own law. -/
theorem validatorFollowsLongDivision : Obligations.ValidatorFollowsLongDivision := by
  refine ⟨fun m => ⟨crcInit_rem m, crcInit_div m, crcInit_idx m⟩, fun m i hi => ?_, fun p c => ⟨remainderOf_eq _, rfl⟩⟩
  refine ⟨?_, crcIterate_div _, crcIterations_div m i, crcIterations_idx m (i + 1)⟩
  rw [crcIterations_rem_succ, crcIterations_div]

end Sys2Proof.Machine
end

section
/-!
PROOFS. The statements of 41_transaction_engine.md. Each step of a measurement is computed from its own phase (R132 to
R142); the runs are put together from these steps, and from a poll attempt on they are followed by induction on what is
left of the poll budget (R147, R149).
-/

namespace Sys2Proof.Machine

/-! ## The steps of a measurement (R132 to R142) -/

theorem IsMeasurement.exec_eq {i : Instr} (h : IsMeasurement i) (s : State) :
    ∃ c a, exec i s = measurement c a s := by
  obtain ⟨a, rfl | rfl⟩ := h
  exacts [⟨codeMeasT, a, rfl⟩, ⟨codeMeasRh, a, rfl⟩]

/-- A successful poll attempt makes one call and takes the environment's answer (R135). -/
theorem stepMPoll_ready {s : State} (hf : Fair s) (hn : 3 ≤ s.takeAvail.1) :
    stepMPoll s = .next { s with
      phase := .mFetch, avails := s.takeAvail.2.avails, draws := s.takeAvail.2.draws,
      trace := s.trace ++ [.avail s.takeAvail.1] } := by
  have hn' : Config.nResp ≤ s.takeAvail.1 := hn
  rw [stepMPoll, busAvail_fair hf, andThen_next, if_pos hn', takeAvail_eq s]
  rfl

/-- A failed poll attempt takes the environment's answer and sleeps once, and then it is counted (R136, R137). -/
theorem stepMPoll_failed {s : State} (hf : Fair s) (hn : s.takeAvail.1 < 3) :
    stepMPoll s = .next (countFailedPoll { s with
      avails := s.takeAvail.2.avails, draws := s.takeAvail.2.draws,
      trace := s.trace ++ [.avail s.takeAvail.1, .sleep s.cfg.tPollMs] }) := by
  have hn' : ¬ Config.nResp ≤ s.takeAvail.1 := Nat.not_le.mpr hn
  have hf' : Fair (s.takeAvail.2.record (.avail s.takeAvail.1)) := (State.takeAvail_returnsLeft s).trans hf
  rw [stepMPoll, busAvail_fair hf, andThen_next, if_neg hn', sleep_fair hf', andThen_next, takeAvail_eq s]
  simp [State.record]

/-- The high byte shifted into place beside the low byte is the two bytes side by side (R90). -/
theorem assembleRaw_eq_shift_or (b0 b1 : Byte) :
    assembleRaw b0 b1 = (b0.setWidth 16 <<< 8) ||| b1.setWidth 16 := by
  rw [assembleRaw, BitVec.append_def, BitVec.shiftLeftZeroExtend_eq, BitVec.setWidth'_eq]

/-! ## The statements about single steps -/

/-- Settles O11: the phase's one call is the write of `OP`. -/
theorem triggerCommandIsWritten : Obligations.TriggerCommandIsWritten := by
  intro i s o hi hf hp ho
  obtain ⟨c, a, he⟩ := hi.exec_eq s
  simp only [he, measurement, hp, stepMCmd, writeCommand, readOp_of_some ho, busWrite_fair hf, andThen_next]
  rfl

/-- Settles O12: each of the two phases makes its one call. -/
theorem settleThenRequestThreeBytes : Obligations.SettleThenRequestThreeBytes := by
  intro i s hi hf
  obtain ⟨c, a, he⟩ := hi.exec_eq s
  refine ⟨fun hp => ?_, fun hp => ?_⟩
  · simp only [he, measurement, hp, stepMSettle, sleep_fair hf, andThen_next]
    rfl
  · simp only [he, measurement, hp, stepMReq, busRequest_fair hf, andThen_next]
    rfl

/-- Settles O13: the check comes before any sleep. -/
theorem pollSucceedsAtThreeBytes : Obligations.PollSucceedsAtThreeBytes := by
  intro i s hi hf hp hn
  obtain ⟨c, a, he⟩ := hi.exec_eq s
  simp only [he, measurement, hp, stepMPoll_ready hf hn]

/-- Settles O14: the attempt is counted below the budget. -/
theorem failedPollIsCounted : Obligations.FailedPollIsCounted := by
  intro i s k hi hf hp hn hk hlt
  obtain ⟨c, a, he⟩ := hi.exec_eq s
  simp only [he, measurement, hp, stepMPoll_failed hf hn]
  exact congrArg _ (countFailedPoll_below hk hlt)

/-- Settles O15: the attempt is counted, and the budget is used up. -/
theorem lastFailedPollRaisesTimeout : Obligations.LastFailedPollRaisesTimeout := by
  intro i s k hi hf hp hn hk hlast
  obtain ⟨c, a, he⟩ := hi.exec_eq s
  simp only [he, measurement, hp, stepMPoll_failed hf hn]
  exact congrArg _ (countFailedPoll_last hk hlast.ge)

/-- Settles O16: the phase's one call takes the three bytes. -/
theorem fetchTakesThreeBytesInOrder : Obligations.FetchTakesThreeBytesInOrder := by
  intro i s b0 b1 b2 hi hf hp hb
  obtain ⟨c, a, he⟩ := hi.exec_eq s
  simp only [he, measurement, hp, stepMFetch, busFetch3_fair hf, andThen_next, hb]
  rw [takeThree_eq s]
  rfl

/-- Settles O17: two bytes side by side are the shifted high byte with the low byte. -/
theorem readingIsAssembledHighByteFirst : Obligations.ReadingIsAssembledHighByteFirst := by
  intro i s b0 b1 hi hp h0 h1
  obtain ⟨c, a, he⟩ := hi.exec_eq s
  simp only [he, measurement, hp, stepMAsm_eq, readB0_of_some h0, readB1_of_some h1, assembleRaw_eq_shift_or]

/-- Settles O18: CRCV runs on the reading as assembled, and its verdict picks the branch. -/
theorem checkDecidesBetweenMaskAndFailure : Obligations.CheckDecidesBetweenMaskAndFailure := by
  intro i s r c hi hp hr hc checked
  obtain ⟨o, a, he⟩ := hi.exec_eq s
  have hrun : s.runCrcv r c = checked := by
    rw [State.runCrcv, crcRun_div, crcRun_idx, crcRun_valid]
    rfl
  simp only [he, measurement, hp, stepMCheck, readRaw_of_some hr, readB2_of_some hc, hrun]
  rfl

/-- Settles O19: the mask is applied to the checked reading. -/
theorem maskedReadingIsReturned : Obligations.MaskedReadingIsReturned := by
  intro i s r hi hp hr
  obtain ⟨c, a, he⟩ := hi.exec_eq s
  simp only [he, measurement, hp, stepMMask_eq, readRaw_of_some hr, corrected_eq]

/-! ## Runs to the first return to `IDLE` -/

/-- From `s` the machine is in `IDLE` for the first time after `k` steps, in `t`. -/
inductive ReturnsAfter : Nat → State → State → Prop
  | idle {t : State} (h : t.phase = .idle) : ReturnsAfter 0 t t
  | step {k : Nat} {s u t : State} (hb : s.phase ≠ .idle) (h : step s = .next u) (hr : ReturnsAfter k u t) :
    ReturnsAfter (k + 1) s t

theorem ReturnsAfter.phase {k : Nat} {s t : State} (h : ReturnsAfter k s t) : t.phase = .idle := by
  induction h with
  | idle h => exact h
  | step _ _ _ ih => exact ih

theorem ReturnsAfter.runSteps {k : Nat} {s t : State} (h : ReturnsAfter k s t) : runSteps k s = .next t := by
  induction h with
  | idle _ => rfl
  | step _ hs _ ih => exact (runSteps_of_step hs _).trans ih

theorem ReturnsAfter.busy_before {k j : Nat} {s t : State} (h : ReturnsAfter k s t) (hj : j < k) :
    ∃ u, Machine.runSteps j s = .next u ∧ u.phase ≠ .idle := by
  induction h generalizing j with
  | idle _ => exact absurd hj (Nat.not_lt_zero j)
  | step hb hs _ ih =>
    cases j with
    | zero => exact ⟨_, rfl, hb⟩
    | succ j =>
      obtain ⟨u, hu, hbu⟩ := ih (Nat.lt_of_succ_lt_succ hj)
      exact ⟨u, (runSteps_of_step hs j).trans hu, hbu⟩

theorem ReturnsAfter.run {k : Nat} {s t : State} (h : ReturnsAfter k s t) :
    Host.Core.run core k s = .next t ∧ t.phase = .idle ∧
      ∀ j, j < k → ∃ u : State, Host.Core.run core j s = .next u ∧ u.phase ≠ .idle := by
  refine ⟨(run_eq_runSteps k s).trans h.runSteps, h.phase, fun j hj => ?_⟩
  obtain ⟨u, hu, hb⟩ := h.busy_before hj
  exact ⟨u, (run_eq_runSteps j s).trans hu, hb⟩

/-! ## From the three bytes to the response, whatever they are (R138 to R142) -/

/-- Where `OP` holds a measurement's code the machine steps as either measurement does: past acceptance the two do not
differ. -/
theorem MeasuringOp.step_next {s t : State} (hm : MeasuringOp s) (hb : s.phase ≠ .idle)
    (h : ∀ i, IsMeasurement i → exec i s = .next t) : step s = .next t :=
  calc step s
    _ = measurement s.readOp s.readArg s := hm.step_eq hb
    _ = measurement codeMeasT s.readArg s := measurement_busy hb _ _ _ _
    _ = .next t := h (.measT s.readArg) ⟨_, .inl rfl⟩

theorem MeasuringOp.next {s t : State} (hm : MeasuringOp s) (hb : s.phase ≠ .idle) (h : step s = .next t) :
    MeasuringOp t := by
  have hframe := (seqStep_of_step hb h).frame
  rwa [MeasuringOp, hframe.op, hframe.arg]

/-- `t` holds the response that goes with the message `b0`, `b1`, `b2` (R150). -/
def AnswersMessage (b0 b1 b2 : Byte) (t : State) : Prop :=
  (validate (b0 ++ b1) b2 = true ∧ t.outcome = some .ok ∧ t.result = some ((b0 ++ b1) &&& 0xFFFC#16)) ∨
    (validate (b0 ++ b1) b2 = false ∧ t.outcome = some .checksumFailure ∧ t.result = none)

/-- The check ends the operation in one step or in two, by the verdict, and without an event. -/
theorem MeasuringOp.returns_mCheck {s : State} {b0 b1 b2 : Byte} (hm : MeasuringOp s) (hp : s.phase = .mCheck)
    (hr : s.raw = some (b0 ++ b1)) (hc : s.b2 = some b2) :
    ∃ j t, j ≤ 2 ∧ ReturnsAfter j s t ∧ AnswersMessage b0 b1 b2 t ∧ t.trace = s.trace := by
  have hb : s.phase ≠ .idle := by simp [hp]
  cases hv : validate (b0 ++ b1) b2 with
  | false =>
    have hstep := hm.step_next hb fun i hi =>
      (checkDecidesBetweenMaskAndFailure i s _ _ hi hp hr hc).trans (if_neg (by simp [hv]))
    exact ⟨1, _, by omega, .step hb hstep (.idle rfl), .inr ⟨hv, rfl, rfl⟩, rfl⟩
  | true =>
    have hstep := hm.step_mCheck_valid hp hr hc hv
    have hmask := (hm.next hb hstep).step_mMask rfl hr
    exact ⟨2, _, le_rfl, .step hb hstep (.step nofun hmask (.idle rfl)), .inl ⟨hv, rfl, rfl⟩, rfl⟩

/-- Once three bytes are there the operation ends within four steps, with the fetch as its only event. -/
theorem MeasuringOp.returns_mFetch {s : State} (hm : MeasuringOp s) (hf : Fair s) (hp : s.phase = .mFetch) :
    ∃ b0 b1 b2 j t, j ≤ 4 ∧ ReturnsAfter j s t ∧ AnswersMessage b0 b1 b2 t ∧
      t.trace = s.trace ++ [.fetch [b0, b1, b2]] := by
  have hb : s.phase ≠ .idle := by simp [hp]
  have hfetch := hm.step_next hb fun i hi => fetchTakesThreeBytesInOrder i s _ _ _ hi hf hp rfl
  have hm' := hm.next hb hfetch
  have hasm := hm'.step_mAsm rfl rfl rfl
  obtain ⟨j, t, hj, hr, hans, ht⟩ := (hm'.next nofun hasm).returns_mCheck rfl rfl rfl
  exact ⟨_, _, _, j + 2, t, by omega, .step hb hfetch (.step nofun hasm hr), hans, ht⟩

/-! ## Polling to the response (R135 to R137, R149) -/

/-- How a measurement that polls in `s` after `k` failed attempts can be over after `j` steps, in `t`: its further
attempts all fail and use up the budget, or one within the budget finds the three bytes. -/
inductive PollingEnds (k j : Nat) (s t : State) : Prop
  | timeout (ns : List Nat) (hns : ∀ n ∈ ns, n < 3) (hlen : k + ns.length = s.cfg.nPoll) (hj : j = ns.length)
    (ho : t.outcome = some .timeout) (hr : t.result = none) (ht : t.trace = s.trace ++ failedPolls s.cfg ns)
  | message (ns : List Nat) (n : Nat) (b0 b1 b2 : Byte) (hns : ∀ n ∈ ns, n < 3) (hlen : k + ns.length < s.cfg.nPoll)
    (hj : j ≤ ns.length + 5) (hn : 3 ≤ n) (ha : AnswersMessage b0 b1 b2 t)
    (ht : t.trace = s.trace ++ failedPolls s.cfg ns ++ [.avail n, .fetch [b0, b1, b2]])

/-- One more failed attempt in front. -/
theorem PollingEnds.after_failed {k j n : Nat} {s u t : State} (h : PollingEnds (k + 1) j u t) (hn : n < 3)
    (hc : u.cfg = s.cfg) (hu : u.trace = s.trace ++ [.avail n, .sleep s.cfg.tPollMs]) : PollingEnds k (j + 1) s t := by
  cases h with
  | timeout ns hns hlen hj ho hr ht =>
    refine .timeout (n :: ns) (List.forall_mem_cons.mpr ⟨hn, hns⟩) ?_ (congrArg (· + 1) hj) ho hr ?_
    · rw [List.length_cons, ← hc]
      omega
    · simp [ht, hu, hc, failedPolls]
  | message ns m b0 b1 b2 hns hlen hj hm ha ht =>
    refine .message (n :: ns) m b0 b1 b2 (List.forall_mem_cons.mpr ⟨hn, hns⟩) ?_ ?_ hm ha ?_
    · rw [List.length_cons, ← hc]
      omega
    · rw [List.length_cons]
      omega
    · simp [ht, hu, hc, failedPolls]

theorem Polling.busy {k : Nat} {s : State} (h : Polling k s) : s.phase ≠ .idle := by simp [h.phase]

/-- A successful attempt ends the polling. -/
theorem Polling.returns_ready {k : Nat} {s : State} (h : Polling k s) (hk : k < s.cfg.nPoll)
    (hn : 3 ≤ s.takeAvail.1) : ∃ j t, ReturnsAfter j s t ∧ PollingEnds k j s t := by
  have hready := h.measuring.step_next h.busy fun i hi => pollSucceedsAtThreeBytes i s hi h.fair h.phase hn
  obtain ⟨b0, b1, b2, j, t, hj, hr, hans, ht⟩ := (h.measuring.next h.busy hready).returns_mFetch h.fair rfl
  refine ⟨j + 1, t, .step h.busy hready hr, .message [] _ b0 b1 b2 (by simp) hk (Nat.succ_le_succ hj) hn hans ?_⟩
  simp [ht, failedPolls]

/-- Polling comes to an end, by induction on the attempts left after the next one. -/
theorem Polling.returns {k d : Nat} {s : State} (h : Polling k s) (hd : k + 1 + d = s.cfg.nPoll) :
    ∃ j t, ReturnsAfter j s t ∧ PollingEnds k j s t := by
  induction d generalizing k s with
  | zero =>
    by_cases hn : 3 ≤ s.takeAvail.1
    · exact h.returns_ready (by omega) hn
    · have hn := Nat.not_le.mp hn
      have hlast := h.measuring.step_next h.busy fun i hi =>
        lastFailedPollRaisesTimeout i s k hi h.fair h.phase hn h.att hd
      exact ⟨1, _, .step h.busy hlast (.idle rfl), .timeout [_] (by simpa using hn) hd rfl rfl rfl rfl⟩
  | succ d ih =>
    by_cases hn : 3 ≤ s.takeAvail.1
    · exact h.returns_ready (by omega) hn
    · have hn := Nat.not_le.mp hn
      have hagain := h.measuring.step_next h.busy fun i hi =>
        failedPollIsCounted i s k hi h.fair h.phase hn h.att (by omega)
      have hpoll : Polling (k + 1) _ := ⟨h.measuring.next h.busy hagain, h.fair, rfl, rfl⟩
      have hleft : k + 1 + 1 + d = s.cfg.nPoll := by omega
      obtain ⟨j, t, hr, hend⟩ := ih hpoll hleft
      exact ⟨j + 1, t, .step h.busy hagain hr, hend.after_failed hn rfl rfl⟩

/-- From its first phase a measurement comes to an end, whatever the environment answers; `u` is the state of its first
poll attempt. -/
theorem Inv.returns_mCmd {s : State} {o : Byte} (hi : Inv s) (hf : Fair s) (hp : s.phase = .mCmd) (ho : s.op = some o) :
    ∃ j u t, ReturnsAfter (j + 3) s t ∧ PollingEnds 0 j u t ∧ u.cfg = s.cfg ∧
      u.trace = s.trace ++ [.write 0x40#7 [o], .sleep s.cfg.tSettleMs, .request 0x40#7 3] := by
  have hm : MeasuringOp s := hi.holds_at hp
  have hb : s.phase ≠ .idle := by simp [hp]
  have hcmd := hm.step_mCmd hf hp
  have hm1 := hm.next hb hcmd
  have hsettle := hm1.step_mSettle hf rfl
  have hm2 := hm1.next nofun hsettle
  have hreq := hm2.step_mReq hf rfl
  have hpoll : Polling 0 _ := ⟨hm2.next nofun hreq, hf, rfl, rfl⟩
  obtain ⟨d, hd⟩ := Nat.exists_eq_add_of_le hi.budget
  obtain ⟨j, t, hr, hend⟩ := hpoll.returns (d := d) (by simpa using hd.symm)
  refine ⟨j, _, t, .step hb hcmd (.step nofun hsettle (.step nofun hreq hr)), hend, rfl, ?_⟩
  simp [readOp_of_some ho, Config.devAddr]

theorem PollingEnds.steps_le {j : Nat} {s t : State} (h : PollingEnds 0 j s t) : j ≤ s.cfg.nPoll + 4 := by
  cases h with
  | timeout ns _ hlen hj _ _ _ => omega
  | message ns _ _ _ _ _ hlen hj _ _ _ => omega

theorem PollingEnds.steps_of_timeout {j : Nat} {s t : State} (h : PollingEnds 0 j s t)
    (ht : t.outcome = some .timeout) : j = s.cfg.nPoll := by
  cases h with
  | timeout ns _ hlen hj _ _ _ => omega
  | message ns _ _ _ _ _ _ _ _ ha _ =>
    rcases ha with ⟨-, ho, -⟩ | ⟨-, ho, -⟩ <;> simp [ho] at ht

/-! ## The statements about acceptance and whole measurements -/

/-- Settles O7: acceptance latches the request and the code decides; a running operation's frame keeps the requests. -/
theorem acceptanceLatchesRequest : Obligations.AcceptanceLatchesRequest := by
  refine ⟨fun s o a rs h hr => ?_, fun s t hb ht => (seqStep_of_step hb ht).frame.requests⟩
  rw [step_idle_hreq h hr, hreqOp_append, hreqArg_append, State.enter, apply_ite Host.Outcome.next,
    apply_ite Host.Outcome.next]
  rfl

/-- Settles O41: three steps lead to the first poll attempt, and the ways polling ends bound the rest. -/
theorem measurementEndsWithinBudget : Obligations.MeasurementEndsWithinBudget := by
  intro s hi hf hp
  obtain ⟨ho, -⟩ : MeasuringOp s := hi.holds_at hp
  obtain ⟨o, ho⟩ : ∃ o, s.op = some o := ho.elim (⟨_, ·⟩) (⟨_, ·⟩)
  obtain ⟨j, u, t, hr, hend, hc, -⟩ := hi.returns_mCmd hf hp ho
  obtain ⟨hrun, hidle, hbefore⟩ := hr.run
  have hle := hend.steps_le
  rw [hc] at hle
  refine ⟨j + 3, t, by omega, hrun, hidle, fun ht => ?_, hbefore⟩
  rw [hend.steps_of_timeout ht, hc, Nat.add_comm]

/-- Settles O42: the trace up to the first poll attempt, and then either of the ways polling ends. -/
theorem measurementTraces : Obligations.MeasurementTraces := by
  intro s o hi hf hp ho
  obtain ⟨j, u, t, hr, hend, hc, hu⟩ := hi.returns_mCmd hf hp ho
  obtain ⟨hrun, hidle, hbefore⟩ := hr.run
  cases hend with
  | timeout ns hns hlen _ hout hres ht =>
    rw [Nat.zero_add, hc] at hlen
    rw [hu, hc] at ht
    exact ⟨j + 3, t, ns, hrun, hidle, hbefore, hns, .inl ⟨hout, hres, hlen, ht⟩⟩
  | message ns n b0 b1 b2 hns hlen _ hn hans ht =>
    rw [Nat.zero_add, hc] at hlen
    rw [hu, hc] at ht
    exact ⟨j + 3, t, ns, hrun, hidle, hbefore, hns, .inr ⟨n, b0, b1, b2, hn, hlen, ht, hans⟩⟩

/-- Settles O43: the failed attempts are counted below the budget, the next one succeeds, and the message is valid. -/
theorem measurementReturnsValidReading : Obligations.MeasurementReturnsValidReading := by
  intro i s rs ns rest n b0 b1 b2 bs hi hf hidle hr ha hns hlen hn hb hcrc
  obtain ⟨a, he⟩ := hi.encode_eq
  have ho := measurementCode_cases i
  have hv : validate (b0 ++ b1) b2 = true := (validate_iff _ _).mpr hcrc
  have hstart := runSteps_to_firstPoll ho hf hidle (he ▸ hr)
  obtain ⟨u, hu, hpoll, rfl⟩ :=
    (State.firstPoll_polling hf ho a rs).runSteps_failed ha hns ((Nat.zero_add _).trans_lt hlen)
  have hend := hpoll.runSteps_valid rfl hn hb hv
  have hrun := (runSteps_add hstart _).trans ((runSteps_add hu 5).trans hend)
  rw [show 4 + (ns.length + 5) = 9 + ns.length by omega] at hrun
  refine ⟨_, (run_eq_runSteps _ s).trans hrun, rfl, rfl, ⟨measurementCode i, ?_, ?_⟩, ?_, rfl, rfl, rfl, rfl⟩
  · obtain ⟨a, rfl | rfl⟩ := hi
    exacts [.inl ⟨rfl, rfl⟩, .inr ⟨rfl, rfl⟩]
  · exact List.append_assoc _ [_] [_]
  · exact congrArg some (Nat.zero_add _)

end Sys2Proof.Machine
end

section
/-!
PROOFS. The statements of 42_register_configurator.md. Under fairness each step of a control-register operation is an
update of the state (R161, R164); the merge takes each bit from the operand or from the register (R165); and the runs of
`RDREG` and `SETRES` are one read up to `R_FETCH`, where the two operations part.
-/

namespace Sys2Proof.Machine

/-! ## The merge, bit by bit (R165, R169) -/

theorem getElem_mergeField (m u a : Byte) {i : Nat} (hi : i < 8) :
    (mergeField m u a)[i] = if m[i] then a[i] else u[i] := by
  cases h : m[i] <;> simp [mergeField, h]

/-- No bit outside the field changes. -/
theorem mergeField_and_not (m u a : Byte) : mergeField m u a &&& ~~~m = u &&& ~~~m := by
  ext i hi
  cases h : m[i] <;> simp [getElem_mergeField, h]

/-- The field becomes the operand's. -/
theorem mergeField_and (m u a : Byte) : mergeField m u a &&& m = a &&& m := by
  ext i hi
  cases h : m[i] <;> simp [getElem_mergeField, h]

theorem mergeField_congr {m u u' a a' : Byte} (hu : u' &&& ~~~m = u &&& ~~~m) (ha : a' &&& m = a &&& m) :
    mergeField m u' a' = mergeField m u a := by rw [mergeField, mergeField, hu, ha]

/-! ## The steps of a control-register operation under fairness (R161, R164) -/

theorem stepRCmd_fair {s : State} (hf : Fair s) :
    stepRCmd s = .next { s with phase := .rReq, trace := s.trace ++ [.write 0x40#7 [0xE7#8]] } := by
  rw [stepRCmd, writeCommand, busWrite_fair hf]
  rfl

theorem stepRReq_fair {s : State} (hf : Fair s) :
    stepRReq s = .next { s with phase := .rFetch, trace := s.trace ++ [.request 0x40#7 1] } := by
  rw [stepRReq, busRequest_fair hf]
  rfl

theorem stepRFetchRead_fair {s : State} (hf : Fair s) :
    stepRFetchRead s = .next { s with
      phase := .idle, ureg := some s.takeByte.1, outcome := some .ok, result := some (s.takeByte.1.setWidth 16),
      bytes := s.takeByte.2.bytes, draws := s.takeByte.2.draws, trace := s.trace ++ [.fetch [s.takeByte.1]] } := by
  rw [stepRFetchRead, busFetch1_fair hf, andThen_next, takeByte_eq s]
  rfl

theorem stepRFetchMerge_fair {s : State} {b : Byte} (hf : Fair s) (ha : s.arg = some b) :
    stepRFetchMerge s = .next { s with
      phase := .sWrite, ureg := some s.takeByte.1, merged := some (mergeField s.cfg.resMask s.takeByte.1 b),
      bytes := s.takeByte.2.bytes, draws := s.takeByte.2.draws, trace := s.trace ++ [.fetch [s.takeByte.1]] } := by
  have harg : (s.takeByte.2.record (.fetch [s.takeByte.1])).readArg = b := readArg_of_some (by simpa using ha)
  simp only [stepRFetchMerge, busFetch1_fair hf, andThen_next, harg]
  rw [takeByte_eq s]
  rfl

theorem stepSWrite_fair {s : State} {m : Byte} (hf : Fair s) (hm : s.merged = some m) :
    stepSWrite s = .next { s with
      phase := .idle, outcome := some .ok, result := none, trace := s.trace ++ [.write 0x40#7 [0xE6#8, m]] } := by
  rw [stepSWrite, writeRegister, readMerged_of_some hm, busWrite_fair hf]
  rfl

/-! ## The statements about single steps -/

/-- Settles O20: each phase makes its one call, and the first is the same in both operations. -/
theorem registerReadSequence : Obligations.RegisterReadSequence := by
  refine fun s a hf => ⟨fun hp => ⟨?_, ?_⟩, fun hp => ?_, fun hp => ?_⟩
  · simp only [exec, execRdreg, hp, stepRCmd_fair hf]
  · simp only [exec, execSetres, hp, stepRCmd_fair hf]
  · simp only [exec, execRdreg, hp, stepRReq_fair hf]
  · simp only [exec, execRdreg, hp, stepRFetchRead_fair hf]

/-- Settles O21: the read half is `RDREG`'s; then the byte read is merged with `ARG`, and `MERGED` is written. -/
theorem resolutionUpdateSequence : Obligations.ResolutionUpdateSequence := by
  refine fun s a b m hf => ⟨fun hp => ?_, fun hp => ?_, fun hp ha => ?_, fun hp hm => ?_⟩
  · simp only [exec, execSetres, hp, stepRCmd_fair hf]
  · simp only [exec, execSetres, hp, stepRReq_fair hf]
  · simp only [exec, execSetres, hp, stepRFetchMerge_fair hf ha, mergeField]
  · simp only [exec, execSetres, hp, stepSWrite_fair hf hm]

/-- Settles O22: a merge is decided by the register outside the field and by the operand inside it, and a first merge
with the same operand changes neither. -/
theorem mergeLaws : Obligations.MergeLaws := fun m u a _ _ =>
  ⟨mergeField_and_not m u a, mergeField_and m u a, mergeField_congr rfl, (mergeField_congr · rfl),
    mergeField_congr (mergeField_and_not m u a) rfl⟩

/-! ## From acceptance to the fetch, in either operation (R131, R161) -/

theorem ConfiguringOp.step_rCmd {s : State} (hc : ConfiguringOp s) (hf : Fair s) (hp : s.phase = .rCmd) :
    step s = .next { s with phase := .rReq, trace := s.trace ++ [.write 0x40#7 [0xE7#8]] } := by
  have hb : s.phase ≠ .idle := by simp [hp]
  obtain ⟨hcmd, -⟩ := registerReadSequence s s.readArg hf
  obtain ⟨hread, hupdate⟩ := hcmd hp
  obtain ⟨ho | ho, ha⟩ := hc
  · exact (step_eq_execRdreg ho ha hb).trans hread
  · exact (step_eq_execSetres ho ha hb).trans hupdate

theorem ConfiguringOp.step_rReq {s : State} (hc : ConfiguringOp s) (hf : Fair s) (hp : s.phase = .rReq) :
    step s = .next { s with phase := .rFetch, trace := s.trace ++ [.request 0x40#7 1] } := by
  have hb : s.phase ≠ .idle := by simp [hp]
  obtain ⟨-, hread, -⟩ := registerReadSequence s s.readArg hf
  obtain ⟨-, hupdate, -⟩ := resolutionUpdateSequence s s.readArg 0x00#8 0x00#8 hf
  obtain ⟨ho | ho, ha⟩ := hc
  · exact (step_eq_execRdreg ho ha hb).trans (hread hp)
  · exact (step_eq_execSetres ho ha hb).trans (hupdate hp)

/-- The read command and the request of one byte, from the first phase of a control-register operation. -/
theorem ConfiguringOp.runSteps_to_rFetch {s : State} (hc : ConfiguringOp s) (hf : Fair s) (hp : s.phase = .rCmd) :
    runSteps 2 s = .next { s with
      phase := .rFetch, trace := s.trace ++ [.write 0x40#7 [0xE7#8], .request 0x40#7 1] } := by
  have hc' : ∀ tr, ConfiguringOp { s with phase := .rReq, trace := tr } := fun _ => hc
  refine (runSteps_of_step (hc.step_rCmd hf hp) 1).trans ?_
  refine (runSteps_of_step ((hc' _).step_rReq hf rfl) 0).trans ?_
  simp [runSteps]

/-- The state in which a control-register operation accepted in `s` fetches its byte. -/
def State.registerFetch (o a : Byte) (rs : List Request) (s : State) : State :=
  { ({ s with requests := rs } : State).latch o a with
    phase := .rFetch, trace := s.trace ++ [.write 0x40#7 [0xE7#8], .request 0x40#7 1] }

theorem runSteps_to_registerFetch {s : State} {o a : Byte} {rs : List Request} (ho : o = 0xE7#8 ∨ o = 0xE6#8)
    (hf : Fair s) (h : s.phase = .idle) (hr : s.requests = hreqWord o a :: rs) :
    runSteps 3 s = .next (s.registerFetch o a rs) := by
  have hnot : ¬ (o = 0xE3#8 ∨ o = 0xE5#8) := by rcases ho with rfl | rfl <;> decide
  have haccept : step s = .next ((({ s with requests := rs } : State).latch o a).goto .rCmd) := by
    rw [step_idle_hreq h hr, hreqOp_append, hreqArg_append, State.enter, if_neg hnot, if_pos ho]
  have hc : ConfiguringOp ((({ s with requests := rs } : State).latch o a).goto .rCmd) :=
    ⟨ho.imp (congrArg some) (congrArg some), rfl⟩
  exact (runSteps_of_step haccept 2).trans (hc.runSteps_to_rFetch hf rfl)

/-- The environment's next byte is decided by its script and its counter alone (R77). -/
theorem takeByte_fst_congr {s t : State} (hb : t.bytes = s.bytes) (hd : t.draws = s.draws) :
    t.takeByte.1 = s.takeByte.1 := by
  rcases takeByte_cases s with ⟨b, bs, h, e⟩ | ⟨h, e⟩
  · rw [e, takeByte_cons (hb.trans h)]
  · rw [e, takeByte_nil (hb.trans h), hd]

theorem registerFetch_byte (o a : Byte) (rs : List Request) (s : State) :
    (s.registerFetch o a rs).takeByte.1 = s.takeByte.1 := takeByte_fst_congr rfl rfl

/-! ## From the fetch to the response (R161, R164) -/

theorem step_rFetch_read {s : State} (hf : Fair s) (hp : s.phase = .rFetch) (ho : s.op = some 0xE7#8)
    (ha : s.arg.isSome) :
    step s = .next { s with
      phase := .idle, ureg := some s.takeByte.1, outcome := some .ok, result := some (s.takeByte.1.setWidth 16),
      bytes := s.takeByte.2.bytes, draws := s.takeByte.2.draws, trace := s.trace ++ [.fetch [s.takeByte.1]] } := by
  obtain ⟨-, -, hread⟩ := registerReadSequence s s.readArg hf
  exact (step_eq_execRdreg ho ha (by simp [hp])).trans (hread hp)

theorem step_rFetch_merge {s : State} {a : Byte} (hf : Fair s) (hp : s.phase = .rFetch) (ho : s.op = some 0xE6#8)
    (ha : s.arg = some a) :
    step s = .next { s with
      phase := .sWrite, ureg := some s.takeByte.1, merged := some (mergeField s.cfg.resMask s.takeByte.1 a),
      bytes := s.takeByte.2.bytes, draws := s.takeByte.2.draws, trace := s.trace ++ [.fetch [s.takeByte.1]] } := by
  obtain ⟨-, -, hmerge, -⟩ := resolutionUpdateSequence s s.readArg a 0x00#8 hf
  exact (step_eq_execSetres ho (by simp [ha]) (by simp [hp])).trans (hmerge hp ha)

theorem step_sWrite {s : State} {m : Byte} (hf : Fair s) (hp : s.phase = .sWrite) (ho : s.op = some 0xE6#8)
    (ha : s.arg.isSome) (hm : s.merged = some m) :
    step s = .next { s with
      phase := .idle, outcome := some .ok, result := none, trace := s.trace ++ [.write 0x40#7 [0xE6#8, m]] } := by
  obtain ⟨-, -, -, hwrite⟩ := resolutionUpdateSequence s s.readArg 0x00#8 m hf
  exact (step_eq_execSetres ho ha (by simp [hp])).trans (hwrite hp hm)

/-- The field of the byte fetched is replaced by the operand's, and the byte is written back. -/
theorem runSteps_update {s : State} {a : Byte} (hf : Fair s) (hp : s.phase = .rFetch) (ho : s.op = some 0xE6#8)
    (ha : s.arg = some a) :
    runSteps 2 s = .next { s with
      phase := .idle, ureg := some s.takeByte.1, merged := some (mergeField s.cfg.resMask s.takeByte.1 a),
      outcome := some .ok, result := none, bytes := s.takeByte.2.bytes, draws := s.takeByte.2.draws,
      trace := s.trace ++
        [.fetch [s.takeByte.1], .write 0x40#7 [0xE6#8, mergeField s.cfg.resMask s.takeByte.1 a]] } := by
  refine (runSteps_of_step (step_rFetch_merge hf hp ho ha) 1).trans ?_
  refine Eq.trans (runSteps_of_step (step_sWrite (by exact hf) rfl (by exact ho) (by simp [ha]) rfl) 0) ?_
  simp [runSteps]

/-! ## The statements about whole operations -/

/-- Settles O47: the read up to the fetch, and the step that returns the byte. -/
theorem registerReadReturnsByte : Obligations.RegisterReadReturnsByte := by
  intro s a rs hf hidle hr
  have hstart := runSteps_to_registerFetch (.inl rfl) hf hidle hr
  have hread := step_rFetch_read (s := s.registerFetch 0xE7#8 a rs) hf rfl rfl rfl
  rw [registerFetch_byte] at hread
  have hrun := (runSteps_add hstart 1).trans (runSteps_of_step hread 0)
  exact ⟨_, (run_eq_runSteps 4 s).trans hrun, rfl, newEvents_of_trace (List.append_assoc _ _ _), rfl⟩

/-- Settles O48: the read up to the fetch, and then the update with the latched operand. -/
theorem resolutionUpdateWritesBack : Obligations.ResolutionUpdateWritesBack := by
  intro s a rs hf hidle hr
  have hstart := runSteps_to_registerFetch (.inr rfl) hf hidle hr
  have hupdate := runSteps_update (s := s.registerFetch 0xE6#8 a rs) hf rfl rfl rfl
  rw [registerFetch_byte] at hupdate
  have hrun := (runSteps_add hstart 2).trans hupdate
  exact ⟨_, mergeField s.cfg.resMask s.takeByte.1 a, (run_eq_runSteps 5 s).trans hrun, rfl,
    newEvents_of_trace (List.append_assoc _ _ _), mergeField_and_not _ _ _, mergeField_and _ _ _, rfl⟩

end Sys2Proof.Machine
end

section
/-!
PROOFS. The statement of 43_reserved_commands.md. The four operations are one presentation (R175 to R178), and `IDLE`
answers it with the refusal.
-/

namespace Sys2Proof.Machine

/-- The operations that are accepted and never executed, each with the code it latches (R175 to R178). -/
theorem exec_eq_presentUnexecuted {i : Instr} {o a : Byte}
    (hi : i = .measTNh a ∧ o = 0xF3#8 ∨ i = .measRhNh a ∧ o = 0xF5#8 ∨ i = .softrst a ∧ o = 0xFE#8 ∨
      i = .illegal o a) (s : State) : exec i s = presentUnexecuted o a s := by
  obtain ⟨rfl, rfl⟩ | ⟨rfl, rfl⟩ | ⟨rfl, rfl⟩ | rfl := hi
  · rfl
  · rfl
  · rfl
  · rfl

/-- Settles O8: each of the four is a presentation, which `IDLE` answers by latching the request and refusing it. -/
theorem unexecutedCodesAnswerRefused : Obligations.UnexecutedCodesAnswerRefused :=
  fun s _ o a hidle hi => (exec_eq_presentUnexecuted hi s).trans (presentUnexecuted_idle hidle o a)

end Sys2Proof.Machine
end

section
/-!
PROOFS. The statement of 44_unit_converters.md. Each converter equals its linear function, and both slopes are positive.
-/

namespace Sys2Proof.Machine

/-- The conversion of R186, written with the division of the rationals. -/
theorem humidityFromRaw_eq (a : Reading) : humidityFromRaw a = (125 * (a.toNat : Rat) - 393216) / 65536 := by
  unfold humidityFromRaw
  rw [Rat.mkRat_eq_div]
  push_cast
  rfl

/-- The conversion of R188, written with the division of the rationals. -/
theorem temperatureFromRaw_eq (a : Reading) :
    temperatureFromRaw a = -4685 / 100 + 17572 * (a.toNat : Rat) / 6553600 := by
  unfold temperatureFromRaw
  rw [Rat.mkRat_eq_div, Rat.mkRat_eq_div]
  push_cast
  rfl

/-- The humidity's slope is positive, 125 / 65536. -/
theorem humidityFromRaw_lt {a b : Reading} (h : a.toNat < b.toNat) : humidityFromRaw a < humidityFromRaw b := by
  rw [humidityFromRaw_eq, humidityFromRaw_eq]
  gcongr

/-- The temperature's slope is positive, 17572 / 6553600. -/
theorem temperatureFromRaw_lt {a b : Reading} (h : a.toNat < b.toNat) :
    temperatureFromRaw a < temperatureFromRaw b := by
  rw [temperatureFromRaw_eq, temperatureFromRaw_eq]
  gcongr

/-- Settles O50: the linear functions give the values, and their positive slopes the order. -/
theorem convertersAreStrictlyIncreasing : Obligations.ConvertersAreStrictlyIncreasing :=
  ⟨fun _ _ h => ⟨humidityFromRaw_lt h, temperatureFromRaw_lt h⟩,
    fun a => ⟨humidityFromRaw_eq a, temperatureFromRaw_eq a⟩⟩

end Sys2Proof.Machine
end

section
/-!
PROOFS. The statements of 60_exceptions.md. A step that calls the environment answers only where the call returns
(R216); apart from that the number of returning calls is carried along unread; an operation ends in one of five steps,
each with its outcome (R200, R206); and a measurement with a wrong check byte is followed from acceptance to its failure
(R202).
-/

namespace Sys2Proof.Machine

/-! ## A call that never returns (R216) -/

/-- A call whose answer the step goes on with has returned. -/
theorem awaitReturn_of_next {α β : Type} {s : State} {f : State → Result α} {g : α → Result β} {b : β}
    (h : andThen (andThen (awaitReturn s) f) g = .next b) : ∃ u, awaitReturn s = .next u := by
  obtain ⟨a, ha, -⟩ := andThen_eq_next h
  obtain ⟨u, hu, -⟩ := andThen_eq_next ha
  exact ⟨u, hu⟩

/-- Every step of SEQ begins with a call, but for the three that work on the registers alone (R148). -/
theorem SeqStep.call_returns {s t : State} (h : SeqStep s t) (ha : s.phase ≠ .mAsm) (hc : s.phase ≠ .mCheck)
    (hm : s.phase ≠ .mMask) : ∃ u, awaitReturn s = .next u := by
  cases h with
  | mAsm hp _ => exact absurd hp ha
  | mCheck hp _ => exact absurd hp hc
  | mMask hp _ => exact absurd hp hm
  | mCmd _ h | mSettle _ h | mReq _ h | mPoll _ h | mFetch _ h => exact awaitReturn_of_next h
  | rCmd _ h | rReq _ h | rFetchRead _ _ h | rFetchMerge _ _ h | sWrite _ h => exact awaitReturn_of_next h

theorem awaitReturn_hangs {s : State} (h : s.returnsLeft = some 0) :
    awaitReturn s = .fault .capabilityNeverReturns := by simp [awaitReturn, h]

/-- In the three phases without a call the step answers, however many calls still return. -/
theorem Inv.step_without_call {s : State} (hi : Inv s)
    (h : s.phase = .mAsm ∨ s.phase = .mCheck ∨ s.phase = .mMask) : ∃ t, step s = .next t := by
  have hm : MeasuringOp s := by rcases h with hp | hp | hp <;> exact And.left (hi.holds_at hp)
  have hb : s.phase ≠ .idle := fun hp => by simp [hp] at h
  rw [hm.step_eq hb]
  rcases h with hp | hp | hp <;> simp only [measurement, hp]
  · exact ⟨_, stepMAsm_eq s⟩
  · rcases stepMCheck_cases s with ⟨-, e⟩ | ⟨-, e⟩ <;> exact ⟨_, e⟩
  · exact ⟨_, stepMMask_eq s⟩

/-! ## The number of returning calls (R216)

A part of a step is looked at as a function of that number, all else of its state being fixed. -/

/-- The state with the given number of returning calls left. -/
def State.withCalls (r : Option Nat) (s : State) : State := { s with returnsLeft := r }

@[simp] theorem State.withCalls_phase (r : Option Nat) (s : State) : (s.withCalls r).phase = s.phase := rfl
@[simp] theorem State.withCalls_cfg (r : Option Nat) (s : State) : (s.withCalls r).cfg = s.cfg := rfl
@[simp] theorem State.withCalls_readOp (r : Option Nat) (s : State) : (s.withCalls r).readOp = s.readOp := rfl
@[simp] theorem State.withCalls_readMerged (r : Option Nat) (s : State) :
    (s.withCalls r).readMerged = s.readMerged := rfl

@[simp] theorem State.record_withCalls (e : Event) (r : Option Nat) (s : State) :
    (s.withCalls r).record e = (s.record e).withCalls r := rfl

@[simp] theorem State.goto_withCalls (p : Phase) (r : Option Nat) (s : State) :
    (s.withCalls r).goto p = (s.goto p).withCalls r := rfl

@[simp] theorem State.takeAvail_withCalls (r : Option Nat) (s : State) :
    (s.withCalls r).takeAvail = (s.takeAvail.1, s.takeAvail.2.withCalls r) := by
  rcases takeAvail_cases s with ⟨n, ns, h, e⟩ | ⟨h, e⟩
  · rw [e]
    exact takeAvail_cons h
  · rw [e]
    exact takeAvail_nil h

@[simp] theorem State.takeByte_withCalls (r : Option Nat) (s : State) :
    (s.withCalls r).takeByte = (s.takeByte.1, s.takeByte.2.withCalls r) := by
  rcases takeByte_cases s with ⟨b, bs, h, e⟩ | ⟨h, e⟩
  · rw [e]
    exact takeByte_cons h
  · rw [e]
    exact takeByte_nil h

@[simp] theorem State.takeThree_withCalls (r : Option Nat) (s : State) :
    (s.withCalls r).takeThree = (s.takeThree.1, s.takeThree.2.withCalls r) := takeThree_calls s r

@[simp] theorem countFailedPoll_withCalls (r : Option Nat) (s : State) :
    countFailedPoll (s.withCalls r) = (countFailedPoll s).withCalls r := by
  rcases countFailedPoll_cases s with ⟨hlt, e⟩ | ⟨hle, e⟩ <;> rw [e]
  · exact if_pos hlt
  · exact if_neg (Nat.not_lt.mpr hle)

/-- With `n` calls or more left, a part of a step gives what it gives where every call returns, and the number of calls
left has gone down by at most `n`. -/
def CountsDown (n : Nat) (o : Option Nat → Result State) : Prop :=
  ∀ t k, n ≤ k → o none = .next t → ∃ j, j ≤ k ∧ k ≤ j + n ∧ o (some k) = .next (t.withCalls (some j))

theorem CountsDown.congr {n : Nat} {o o' : Option Nat → Result State} (h : CountsDown n o) (he : ∀ r, o' r = o r) :
    CountsDown n o' := by rwa [funext he]

theorem countsDown_next (n : Nat) (t : State) : CountsDown n fun r => .next (t.withCalls r) := by
  rintro _ k - ⟨⟩
  exact ⟨k, le_rfl, Nat.le_add_right k n, rfl⟩

theorem countsDown_refused (n : Nat) (e : Refusal) : CountsDown n fun _ => .refused e := by
  rintro t k - ⟨⟩

/-- A call uses up one. -/
theorem CountsDown.call {n : Nat} {s : State} {f : State → Result State}
    (h : CountsDown n fun r => f (s.withCalls r)) :
    CountsDown (n + 1) fun r => andThen (awaitReturn (s.withCalls r)) f := by
  intro t k hk ht
  obtain ⟨k, rfl⟩ := Nat.exists_eq_add_of_le' (Nat.le_of_add_left_le hk)
  obtain ⟨j, hle, hge, hj⟩ := h t k (Nat.le_of_succ_le_succ hk) ht
  exact ⟨j, by omega, by omega, hj⟩

/-- One call and the answer that goes with it. -/
theorem countsDown_one_call {α : Type} {x : State → α} {g : α → State} {s : State} (n : Nat)
    (h : ∀ r, g (x (s.withCalls r)) = (g (x s)).withCalls r) :
    CountsDown (n + 1) fun r =>
      andThen (andThen (awaitReturn (s.withCalls r)) fun u => .next (x u)) fun v => .next (g v) := by
  have hnext : CountsDown n fun r => .next (g (x (s.withCalls r))) :=
    (countsDown_next n (g (x s))).congr fun r => congrArg _ (h r)
  exact hnext.call.congr fun r => by cases awaitReturn (s.withCalls r) <;> rfl

/-! ## Each step of SEQ counts down (R148) -/

/-- A poll attempt after its first call has returned: a failed one makes a second call, the sleep (R135, R136). -/
def pollAfterCall (s : State) : Result State :=
  if 3 ≤ s.takeAvail.1 then .next ((s.takeAvail.2.record (.avail s.takeAvail.1)).goto .mFetch)
  else andThen (sleep s.cfg.tPollMs (s.takeAvail.2.record (.avail s.takeAvail.1))) fun u => .next (countFailedPoll u)

theorem stepMPoll_eq_call (s : State) : stepMPoll s = andThen (awaitReturn s) pollAfterCall := by
  rw [stepMPoll, busAvail]
  cases awaitReturn s <;> simp [pollAfterCall, Config.nResp]

theorem pollAfterCall_countsDown (s : State) : CountsDown 1 fun r => pollAfterCall (s.withCalls r) := by
  simp only [pollAfterCall, State.takeAvail_withCalls, State.record_withCalls, State.goto_withCalls,
    State.withCalls_cfg]
  split
  · exact countsDown_next 1 _
  · exact countsDown_one_call 0 fun r => by simp

theorem stepMPoll_countsDown (s : State) : CountsDown 2 fun r => stepMPoll (s.withCalls r) :=
  (pollAfterCall_countsDown s).call.congr fun _ => stepMPoll_eq_call _

theorem stepMCheck_countsDown (s : State) : CountsDown 2 fun r => stepMCheck (s.withCalls r) := by
  rcases stepMCheck_cases s with ⟨hv, -⟩ | ⟨hv, -⟩
  · exact (countsDown_next 2 ((s.runCrcv s.readRaw s.readB2).goto .mMask)).congr fun _ => if_pos hv
  · exact (countsDown_next 2 ((s.runCrcv s.readRaw s.readB2).raise .checksumFailure)).congr fun _ =>
      if_neg (Bool.eq_false_iff.mp hv)

theorem measurement_countsDown (c a : Byte) (s : State) : CountsDown 2 fun r => measurement c a (s.withCalls r) := by
  cases hp : s.phase <;>
    simp only [measurement, stepMCmd, stepMSettle, State.withCalls_phase, State.withCalls_readOp,
      State.withCalls_cfg, hp]
  case idle => exact countsDown_next 2 ((s.latch c a).goto .mCmd)
  case mCmd | mSettle | mReq => exact countsDown_one_call 1 fun _ => rfl
  case mPoll => exact stepMPoll_countsDown s
  case mFetch => exact countsDown_one_call 1 fun r => by rw [State.takeThree_withCalls]; rfl
  case mAsm => exact countsDown_next 2 ({ s with raw := some (assembleRaw s.readB0 s.readB1) }.goto .mCheck)
  case mCheck => exact stepMCheck_countsDown s
  case mMask => exact countsDown_next 2 (s.returnOk (some (corrected s.readRaw)))
  case rCmd | rReq | rFetch | sWrite => exact countsDown_refused 2 _

theorem execRdreg_countsDown (a : Byte) (s : State) : CountsDown 2 fun r => execRdreg a (s.withCalls r) := by
  cases hp : s.phase <;> simp only [execRdreg, State.withCalls_phase, hp]
  case idle => exact countsDown_next 2 ((s.latch codeReadReg a).goto .rCmd)
  case rCmd | rReq => exact countsDown_one_call 1 fun _ => rfl
  case rFetch => exact countsDown_one_call 1 fun r => by rw [State.takeByte_withCalls]; rfl
  all_goals exact countsDown_refused 2 _

theorem execSetres_countsDown (a : Byte) (s : State) : CountsDown 2 fun r => execSetres a (s.withCalls r) := by
  cases hp : s.phase <;> simp only [execSetres, stepSWrite, State.withCalls_phase, State.withCalls_readMerged, hp]
  case idle => exact countsDown_next 2 ((s.latch codeWriteReg a).goto .rCmd)
  case rCmd | rReq | sWrite => exact countsDown_one_call 1 fun _ => rfl
  case rFetch => exact countsDown_one_call 1 fun r => by rw [State.takeByte_withCalls]; rfl
  all_goals exact countsDown_refused 2 _

theorem presentUnexecuted_countsDown (o a : Byte) (s : State) :
    CountsDown 2 fun r => presentUnexecuted o a (s.withCalls r) := by
  by_cases h : s.phase = .idle
  · exact (countsDown_next 2 { s.latch o a with outcome := some .refused, phase := .idle }).congr fun r =>
      presentUnexecuted_idle (s := s.withCalls r) h o a
  · exact (countsDown_refused 2 _).congr fun r => presentUnexecuted_busy (s := s.withCalls r) h o a

theorem execCrcValidate_countsDown (p : Reading) (c : Byte) (s : State) :
    CountsDown 2 fun r => execCrcValidate p c (s.withCalls r) := by
  by_cases h : s.phase = .idle
  · exact (countsDown_next 2 (s.runCrcv p c)).congr fun r => execCrcValidate_idle (s := s.withCalls r) h p c
  · exact (countsDown_refused 2 _).congr fun r => execCrcValidate_busy (s := s.withCalls r) h p c

theorem exec_countsDown (i : Instr) (s : State) : CountsDown 2 fun r => exec i (s.withCalls r) := by
  cases i with
  | measT a => exact measurement_countsDown codeMeasT a s
  | measRh a => exact measurement_countsDown codeMeasRh a s
  | setres a => exact execSetres_countsDown a s
  | rdreg a => exact execRdreg_countsDown a s
  | measTNh a => exact presentUnexecuted_countsDown codeMeasTNh a s
  | measRhNh a => exact presentUnexecuted_countsDown codeMeasRhNh a s
  | softrst a => exact presentUnexecuted_countsDown codeSoftRst a s
  | illegal o a => exact presentUnexecuted_countsDown o a s
  | crcValidate p c => exact execCrcValidate_countsDown p c s

/-- The number of calls decides neither whether a step waits nor which operation it runs. -/
theorem step_countsDown (s : State) : CountsDown 2 fun r => step (s.withCalls r) := by
  rcases step_cases s with ⟨hp, hr, -⟩ | ⟨q, qs, hp, hr, -⟩ | ⟨hb, -⟩
  · exact (countsDown_next 2 s).congr fun r => step_idle_nil (s := s.withCalls r) hp hr
  · exact (exec_countsDown (decode q) { s with requests := qs }).congr fun r =>
      step_idle_cons (s := s.withCalls r) hp hr
  · exact (exec_countsDown s.current s).congr fun r => step_busy (s := s.withCalls r) hb

/-! ## The outcome of the step that ends an operation (R200) -/

/-- The ways an operation of `s` can have ended in `t`, each operation with its own. -/
inductive Ending (s t : State) : Prop
  | reading (hs : MeasuringOp s) (ho : t.outcome = some .ok) (hr : t.result.isSome)
  | checksumFailure (hs : MeasuringOp s) (ho : t.outcome = some .checksumFailure) (hr : t.result = none)
  | timeout (hs : MeasuringOp s) (ho : t.outcome = some .timeout) (hr : t.result = none)
  | register (hs : s.op = some 0xE7#8) (ho : t.outcome = some .ok) (hr : t.result.isSome)
  | update (hs : s.op = some 0xE6#8) (ho : t.outcome = some .ok) (hr : t.result = none)

/-- Only a failed attempt that uses up the budget ends an operation in `M_POLL`. -/
theorem stepMPoll_ending {s t : State} (hm : MeasuringOp s) (h : stepMPoll s = .next t) (ht : t.phase = .idle) :
    Ending s t := by
  obtain ⟨n, ns, d, r, -, -, -, -, ⟨-, rfl⟩ | ⟨-, u, rfl, -⟩⟩ := stepMPoll_next h
  · cases ht
  · rcases countFailedPoll_cases u with ⟨-, e⟩ | ⟨-, e⟩ <;> rw [e] at ht ⊢
    · cases ht
    · exact .timeout hm rfl rfl

theorem SeqStep.ending {s t : State} (hi : Inv s) (h : SeqStep s t) (ht : t.phase = .idle) : Ending s t := by
  cases h with
  | mCmd _ h =>
    obtain ⟨r, -, rfl⟩ := stepMCmd_next h
    cases ht
  | mSettle _ h =>
    obtain ⟨r, -, rfl⟩ := stepMSettle_next h
    cases ht
  | mReq _ h =>
    obtain ⟨r, -, rfl⟩ := stepMReq_next h
    cases ht
  | mPoll hp h =>
    obtain ⟨hm, -⟩ : MeasuringOp s ∧ ∃ k, s.att = some k ∧ k < s.cfg.nPoll := hi.holds_at hp
    exact stepMPoll_ending hm h ht
  | mFetch _ h =>
    obtain ⟨b0, b1, b2, bs, d, r, -, -, -, -, rfl⟩ := stepMFetch_next h
    cases ht
  | mAsm _ h =>
    cases (stepMAsm_eq s).symm.trans h
    cases ht
  | mCheck hp h =>
    obtain ⟨hm, -⟩ : MeasuringOp s ∧ HasBytes s ∧ HasRaw s := hi.holds_at hp
    rcases stepMCheck_cases s with ⟨-, e⟩ | ⟨-, e⟩ <;> cases e.symm.trans h
    · cases ht
    · exact .checksumFailure hm rfl rfl
  | mMask hp h =>
    obtain ⟨hm, -⟩ : MeasuringOp s ∧ HasRaw s ∧ HasValidated s ∧ s.valid = some true := hi.holds_at hp
    cases (stepMMask_eq s).symm.trans h
    exact .reading hm rfl rfl
  | rCmd _ h =>
    obtain ⟨r, -, rfl⟩ := stepRCmd_next h
    cases ht
  | rReq _ h =>
    obtain ⟨r, -, rfl⟩ := stepRReq_next h
    cases ht
  | rFetchRead hp ho h =>
    have hc : ConfiguringOp s := hi.holds_at hp
    obtain ⟨u, bs, d, r, -, -, -, -, rfl⟩ := stepRFetchRead_next h
    exact .register (hc.op_of_readOp ho) rfl rfl
  | rFetchMerge _ _ h =>
    obtain ⟨u, w, bs, d, r, -, -, -, -, -, rfl⟩ := stepRFetchMerge_next h
    cases ht
  | sWrite hp h =>
    obtain ⟨ho, -⟩ : s.op = some 0xE6#8 ∧ _ := hi.holds_at hp
    obtain ⟨r, -, rfl⟩ := stepSWrite_next h
    exact .update ho rfl rfl

/-! ## Three bytes with a wrong check byte (R141, R202) -/

theorem MeasuringOp.step_mCheck_invalid {s : State} {r : Reading} {c : Byte} (hm : MeasuringOp s)
    (hp : s.phase = .mCheck) (hr : s.raw = some r) (hc : s.b2 = some c) (hv : validate r c = false) :
    step s = .next ((s.runCrcv r c).raise .checksumFailure) := by
  rw [hm.step_eq (by simp [hp])]
  simp [measurement, hp, stepMCheck, readRaw_of_some hr, readB2_of_some hc, hv]

/-- From a successful poll attempt the wrong check byte is four steps away from the failure. -/
theorem Polling.runSteps_invalid {k n : Nat} {ns : List Nat} {s : State} {b0 b1 b2 : Byte} {bs : List Byte}
    (h : Polling k s) (ha : s.avails = n :: ns) (hn : 3 ≤ n) (hb : s.bytes = b0 :: b1 :: b2 :: bs)
    (hv : validate (b0 ++ b1) b2 = false) :
    runSteps 4 s = .next
      (((({ s with avails := ns, trace := s.trace ++ [.avail n] } : State).fetched b0 b1 b2 bs).runCrcv (b0 ++ b1)
        b2).raise .checksumFailure) := by
  have hcheck := MeasuringOp.runSteps_to_mCheck
    (s := { s with phase := .mFetch, avails := ns, trace := s.trace ++ [.avail n] }) h.measuring h.fair rfl hb
  refine (runSteps_of_step (h.step_ready ha hn) 3).trans ((runSteps_add hcheck 1).trans ?_)
  exact runSteps_of_step (MeasuringOp.step_mCheck_invalid (by exact h.measuring) rfl rfl rfl hv) 0

/-! ## The statements -/

/-- Settles O25: by the invariant a step answers or hangs, and it answers only where its call returns. -/
theorem callThatNeverReturnsHangs : Obligations.CallThatNeverReturnsHangs := by
  refine fun s hi hl hb => ⟨fun ha hc hm => ?_, hi.step_without_call⟩
  rcases hi.step_goesOn with ⟨t, ht⟩ | ⟨hfault, -⟩
  · obtain ⟨u, hu⟩ := (seqStep_of_step hb ht).call_returns ha hc hm
    cases (awaitReturn_hangs hl).symm.trans hu
  · exact hfault

/-- Settles O26: no step makes more than two calls, and none reads how many are left but to make one. -/
theorem callsLeftOnlyCountDown : Obligations.CallsLeftOnlyCountDown := fun s => step_countsDown s

/-- Settles O35: the invariant holds no outcome while an operation runs, and the steps that end one are its endings. -/
theorem outcomeByOperation : Obligations.OutcomeByOperation := by
  refine fun s t hi hb ht => ⟨(everyStepKeepsInvariant s t hi ht).response.1, fun hidle => ?_⟩
  cases (seqStep_of_step hb ht).ending hi hidle with
  | reading hs ho hr => exact .inl ⟨hs.1, .inl ⟨ho, hr⟩⟩
  | checksumFailure hs ho hr => exact .inl ⟨hs.1, .inr (.inl ⟨ho, hr⟩)⟩
  | timeout hs ho hr => exact .inl ⟨hs.1, .inr (.inr ⟨ho, hr⟩)⟩
  | register hs ho hr => exact .inr (.inl ⟨hs, ho, hr⟩)
  | update hs ho hr => exact .inr (.inr ⟨hs, ho, hr⟩)

/-- Settles O44: the failed attempts are counted below the budget, the next one succeeds, and the check byte is wrong. -/
theorem measurementRejectsBadCheckByte : Obligations.MeasurementRejectsBadCheckByte := by
  intro i s rs ns rest n b0 b1 b2 bs hi hf hidle hr ha hns hlen hn hb hcrc
  obtain ⟨a, he⟩ := hi.encode_eq
  have ho := measurementCode_cases i
  have hv : validate (b0 ++ b1) b2 = false := by
    rw [Bool.eq_false_iff]
    exact mt (validate_iff _ _).mp hcrc
  have hstart := runSteps_to_firstPoll ho hf hidle (he ▸ hr)
  obtain ⟨u, hu, hpoll, rfl⟩ :=
    (State.firstPoll_polling hf ho a rs).runSteps_failed ha hns ((Nat.zero_add _).trans_lt hlen)
  have hend := hpoll.runSteps_invalid rfl hn hb hv
  have hrun := (runSteps_add hstart _).trans ((runSteps_add hu 4).trans hend)
  rw [show 4 + (ns.length + 4) = 8 + ns.length by omega] at hrun
  refine ⟨_, (run_eq_runSteps _ s).trans hrun, rfl, rfl, newEvents_of_trace ?_, rfl, rfl, rfl⟩
  simp [State.fetched, State.firstPoll, measurementCode]

end Sys2Proof.Machine
end
